-- ==== Sys2Proof/Word.lean ====
section
/-! DEFINITION. The words of the block (spec/00_scope.md R8) and the two quantities it measures (R11). -/

namespace Sys2Proof

/-- A byte of the bus, `u8` of spec/00_scope.md R8. -/
abbrev Byte := BitVec 8

/-- A register of the host port or a command word, `u32` of R8. -/
abbrev Word := BitVec 32

/-- A quantity `q` of R11: T is temperature, H is relative humidity. -/
inductive Quantity where
  | t
  | h
  deriving DecidableEq, Repr, Inhabited

end Sys2Proof
end

