-- ==== Sys2Proof/Config.lean ====
section
/-! DEFINITION. What an implementation fixes (spec/00_scope.md R6, spec/93_implementation_defined.md U14, U15) and
the free draws that stand for the environment where nothing is scripted (R41: "The model takes all four as free inputs"). -/

namespace Sys2Proof

/-- The implementation parameters of spec/00_scope.md R6, one field per row. The widths are those of the legal ranges;
which values inside them are admitted is `Machine.paramsAdmitted`. -/
structure Params where
  /-- `DEV_ADDR`, the 7-bit target address of the sensor. -/
  devAddr : BitVec 7
  /-- `TICK_PERIOD`, in microseconds. No rule of the step reads it. -/
  tickPeriodUs : Nat
  /-- `COOLDOWN_TICKS`, at most 2^CD_W - 1 with CD_W at most 32. -/
  cooldownTicks : BitVec 32
  /-- `CD_W`, the width of the cooldown counters. -/
  cdW : Nat
  /-- `HOLD_DELAY_T_TICKS`. -/
  holdDelayT : BitVec 16
  /-- `HOLD_DELAY_H_TICKS`. -/
  holdDelayH : BitVec 16
  /-- `RESET_SETTLE_TICKS`. -/
  resetSettle : BitVec 16
  /-- `POLL_MAX_T`. -/
  pollMaxT : BitVec 8
  /-- `POLL_MAX_H`. -/
  pollMaxH : BitVec 8
  /-- `POLL_GAP_TICKS`. -/
  pollGap : BitVec 16
  /-- `INIT_PRECISION`. -/
  initPrecision : Byte
  deriving DecidableEq, Repr, Inhabited

/-- The defaults of spec/00_scope.md R6. -/
def Params.defaults : Params where
  devAddr := 0x40
  tickPeriodUs := 1000
  cooldownTicks := 1000
  cdW := 16
  holdDelayT := 85
  holdDelayH := 29
  resetSettle := 15
  pollMaxT := 10
  pollMaxH := 4
  pollGap := 10
  initPrecision := 0x00

/-- `HOLD_DELAY_q` of spec/41_measurement.md R113. -/
def Params.holdDelay (p : Params) : Quantity → BitVec 16
  | .t => p.holdDelayT
  | .h => p.holdDelayH

/-- `POLL_MAX_q` of spec/41_measurement.md R116. -/
def Params.pollMax (p : Params) : Quantity → BitVec 8
  | .t => p.pollMaxT
  | .h => p.pollMaxH

/-- `REG_BASE`, the system address of offset 0: OPEN (spec/93_implementation_defined.md U14, log entry 11). -/
opaque Config.regBase : Nat

/-- Free draw of cycle `n`: is `rst` asserted (spec/60_exceptions.md R211). The draws below are log entry 1. -/
opaque Config.freeRst : Nat → Bool
/-- Free draw of cycle `n`: does the time base tick (spec/20_memory.md R70). -/
opaque Config.freeTick : Nat → Bool
/-- Free draw of cycle `n`: does the host access a register (R61). -/
opaque Config.freeHostActive : Nat → Bool
/-- Free draw of cycle `n`: is the host's access a write (R61). -/
opaque Config.freeHostWrites : Nat → Bool
/-- Free draw of cycle `n`: which of the eight registers the host accesses (spec/10_state.md R22). -/
opaque Config.freeHostReg : Nat → BitVec 3
/-- Free draw of cycle `n`: the word the host writes. -/
opaque Config.freeHostData : Nat → Word
/-- Free draw of cycle `n`: does the transport answer now (spec/93_implementation_defined.md U7). -/
opaque Config.freeAnswers : Nat → Bool
/-- Free draw of cycle `n`: is the answer an acknowledgement (U5). -/
opaque Config.freeAcks : Nat → Bool
/-- Free draw of cycle `n`: byte `k` of an acknowledged read (U6). -/
opaque Config.freeByte : Nat → Nat → Byte

end Sys2Proof
end

