-- ==== Sys2Proof/Machine/Operands.lean ====
section
/-! DEFINITION. Operand forms and the codec: the fields of a command word (spec/30_encoding.md R80, R87, R88), the
frames of the bus (spec/40_codec.md R100, R101), the decode of a sample (R103) and the checks on operands and parameters. -/

namespace Sys2Proof.Machine

/-! ### The command word -/

/-- `OP`, bits 3:0 (spec/30_encoding.md R80). -/
def opField (w : Word) : BitVec 4 := w.extractLsb' 0 4

/-- `RSV0`, bits 7:4, must be 0 (R80). -/
def rsv0Field (w : Word) : BitVec 4 := w.extractLsb' 4 4

/-- `ARG`, bits 15:8 (R80). -/
def argField (w : Word) : Byte := w.extractLsb' 8 8

/-- `RSV1`, bits 31:16, must be 0 (R80). -/
def rsv1Field (w : Word) : BitVec 16 := w.extractLsb' 16 16

/-- The quantity mask of WAIT_SAFE, `ARG[1:0]` (R87). -/
def maskField (w : Word) : BitVec 2 := w.extractLsb' 8 2

/-- `w[15:10]`, must be 0 for WAIT_SAFE (R87). -/
def maskRest (w : Word) : BitVec 6 := w.extractLsb' 10 6

/-- `Legal(w)` of spec/30_encoding.md R88, as the rule writes it. -/
def legal (w : Word) : Bool :=
  w.extractLsb' 16 16 == 0#16 && w.extractLsb' 4 4 == 0#4 &&
    ((opField w ∈ [0x1#4, 0x2#4, 0x3#4, 0x5#4] && w.extractLsb' 8 8 == 0#8)
      || opField w == 0x4#4
      || (opField w == 0x6#4 && w.extractLsb' 10 6 == 0#6))

/-- `ValidPrecision(c)` of R86. -/
def validPrecision (c : Byte) : Bool :=
  c == 0x00 || c == 0x01 || c == 0x80 || c == 0x81

/-- The resolution pairing (humidity bits, temperature bits) of a precision code, the table of R86. The block never
interprets it: no other definition reads it. -/
def precisionPairing (c : Byte) : Option (Nat × Nat) :=
  if c = 0x00 then some (12, 14)
  else if c = 0x01 then some (8, 12)
  else if c = 0x80 then some (10, 13)
  else if c = 0x81 then some (11, 11)
  else none

/-- The configurations this spec covers: the legal ranges of spec/00_scope.md R6 that the types of `Params` do not
already give, and the first two constraints of R7 (the third is an integration obligation and is not checked). -/
def paramsAdmitted (p : Params) : Bool :=
  decide (1 ≤ p.cdW ∧ p.cdW ≤ 32) && decide (p.cooldownTicks.toNat < 2 ^ p.cdW)
    && p.pollMaxT != 0 && p.pollMaxH != 0 && validPrecision p.initPrecision && decide (0 < p.tickPeriodUs)

/-! ### The frames of the bus -/

/-- `TriggerByte(q, mode)` of spec/30_encoding.md R85; `hold` is mode = 1. -/
def triggerByte (q : Quantity) (hold : Bool) : Byte :=
  match q, hold with
  | .t, true => 0xE3
  | .h, true => 0xE5
  | .t, false => 0xF3
  | .h, false => 0xF5

/-- `encodeTrigger(q, mode)` of spec/40_codec.md R100. -/
def encodeTrigger (q : Quantity) (hold : Bool) : List Byte := [triggerByte q hold]

/-- `encodeUserRegister(p)` of R101. -/
def encodeUserRegister (p : Byte) : List Byte := [0xE6, p]

/-- The RESET frame of spec/30_encoding.md R82. -/
def resetFrame : List Byte := [0xFE]

/-! ### The sample -/

/-- The raw sample, big-endian: `b0 * 256 + b1` (spec/20_memory.md R65). -/
def rawSample (b0 b1 : Byte) : BitVec 16 := b0 ++ b1

/-- The masked sample `m = raw AND 0xFFFC` (spec/40_codec.md R103). -/
def maskedSample (b0 b1 : Byte) : BitVec 16 := rawSample b0 b1 &&& 0xFFFC#16

/-- `N_q(m)` of R102, exact integer arithmetic. -/
def transfer (q : Quantity) (m : Nat) : Int :=
  match q with
  | .t => 17572 * (m : Int) - 307036160
  | .h => 12500 * (m : Int) - 39321600

/-- `Decode_q(b0, b1)` of R103, as the `int32` the cache registers hold. It fits (R104), so nothing is truncated. -/
def decodeSample (q : Quantity) (b0 b1 : Byte) : Word :=
  BitVec.ofInt 32 (transfer q (maskedSample b0 b1).toNat)

/-- The no-data sentinel of spec/10_state.md R27. -/
def noData : Word := 0x80000000

end Sys2Proof.Machine
end

