-- ==== Sys2Proof/Syntax.lean ====
section
/-! DEFINITION. The instructions: one constructor per row of spec/opcode_table.json. The first six are the host's
commands (spec/30_encoding.md R81), the last seven the sensor frames by their first byte (R84). -/

namespace Sys2Proof

/-- The rows of spec/opcode_table.json, in the table's order. -/
inductive Instr where
  /-- `GET_T`, spec/43_commands.md R162. -/
  | getT
  /-- `GET_H`, R163. -/
  | getH
  /-- `GET_DATA`, R164. -/
  | getData
  /-- `SET_PRECISION p`, R166: `p` is `w[15:8]`, any byte. -/
  | setPrecision (p : Byte)
  /-- `SOFT_RESET`, R168. -/
  | softReset
  /-- `WAIT_SAFE m`, R169: bit 0 of `m` is T, bit 1 is H. -/
  | waitSafe (m : BitVec 2)
  /-- Frame [0xE3], spec/41_measurement.md R113. -/
  | sensorTrigTHold
  /-- Frame [0xE5], R113. -/
  | sensorTrigHHold
  /-- Frame [0xF3], R113. -/
  | sensorTrigTNohold
  /-- Frame [0xF5], R113. -/
  | sensorTrigHNohold
  /-- Frame [0xE6, code], spec/43_commands.md R167 and spec/70_reset_and_hazards.md R223. -/
  | sensorWriteUserreg (code : Byte)
  /-- Byte 0xE7, never issued by the block (spec/30_encoding.md R89). -/
  | sensorReadUserreg
  /-- Frame [0xFE], spec/43_commands.md R167 and spec/70_reset_and_hazards.md R222. -/
  | sensorSoftReset
  deriving DecidableEq, Repr

end Sys2Proof
end

