-- ==== Sys2Proof/WellFormed.lean ====
section
/-! DEFINITION. Which instructions are well formed. Every operand of a command is admitted (spec/30_encoding.md R87: any
of the 256 precision values is legal, the mask has two bits); a USERREG frame carries one of the four codes (R82, R86). -/

namespace Sys2Proof

/-- The one check: the code of a USERREG frame is a precision code ("the function is never applied to another value",
spec/40_codec.md R101). The check of a SET_PRECISION operand is made at execution (spec/43_commands.md R166). -/
def Instr.wf : Instr → Bool
  | .getT | .getH | .getData | .setPrecision _ | .softReset | .waitSafe _ => true
  | .sensorTrigTHold | .sensorTrigHHold | .sensorTrigTNohold | .sensorTrigHNohold => true
  | .sensorWriteUserreg code => Machine.validPrecision code
  | .sensorReadUserreg | .sensorSoftReset => true

end Sys2Proof
end

