-- ==== Sys2Proof/Decode.lean ====
section
/-! DEFINITION. The decoder and the encoder of the block's two encoding spaces (spec/30_encoding.md): the 32-bit command
word and the sensor frames. Both spaces decode totally, and a rejection says why. -/

namespace Sys2Proof

/-- What is decoded: a word written to CMD, or the bytes of a write frame in bus order (spec/20_memory.md R65). -/
inductive Encoded where
  | command (w : Word)
  | frame (bytes : List Byte)
  deriving DecidableEq, Repr

/-- Why a word or a frame is no instruction. The first three are the ILLEGAL_COMMAND words of spec/30_encoding.md R89. -/
inductive Rejection where
  /-- A nonzero bit of `RSV0` or `RSV1` (R80). -/
  | reservedBits
  /-- `OP` is 0x0 or 0x7 to 0xF (R81). -/
  | unknownOpcode
  /-- A nonzero must-be-zero bit of `ARG` (R87). -/
  | nonzeroArg
  /-- A frame whose first byte is none of R84. -/
  | unknownSensorByte
  /-- A frame with a length no format of R82 has. -/
  | frameLength
  deriving DecidableEq, Repr

/-- The answer of the decoder. -/
inductive Decoded where
  | ok (i : Instr)
  | reject (r : Rejection)
  deriving DecidableEq, Repr

/-- The instruction decoded, where there is one. -/
def Decoded.instr? : Decoded → Option Instr
  | .ok i => some i
  | .reject _ => none

/-- A command that takes no operand: `ARG` must be 0 (R87). -/
def withoutArg (i : Instr) (arg : Byte) : Decoded :=
  if arg = 0 then .ok i else .reject .nonzeroArg

/-- The command opcode map, R81. -/
def decodeOp (w : Word) : Decoded :=
  if Machine.opField w = 0x1 then withoutArg .getT (Machine.argField w)
  else if Machine.opField w = 0x2 then withoutArg .getH (Machine.argField w)
  else if Machine.opField w = 0x3 then withoutArg .getData (Machine.argField w)
  else if Machine.opField w = 0x4 then .ok (.setPrecision (Machine.argField w))
  else if Machine.opField w = 0x5 then withoutArg .softReset (Machine.argField w)
  else if Machine.opField w = 0x6 then
    (if Machine.maskRest w = 0 then .ok (.waitSafe (Machine.maskField w)) else .reject .nonzeroArg)
  else .reject .unknownOpcode

/-- A command word (R80): the reserved fields first. -/
def decodeCommand (w : Word) : Decoded :=
  if Machine.rsv0Field w = 0 ∧ Machine.rsv1Field w = 0 then decodeOp w else .reject .reservedBits

/-- A frame of one byte (R82, R84). 0xE6 alone is no USERREG frame, which has two bytes. -/
def decodeByte (b : Byte) : Decoded :=
  if b = 0xE3 then .ok .sensorTrigTHold
  else if b = 0xE5 then .ok .sensorTrigHHold
  else if b = 0xF3 then .ok .sensorTrigTNohold
  else if b = 0xF5 then .ok .sensorTrigHNohold
  else if b = 0xE7 then .ok .sensorReadUserreg
  else if b = 0xFE then .ok .sensorSoftReset
  else if b = 0xE6 then .reject .frameLength
  else .reject .unknownSensorByte

/-- A frame of two bytes (R82): USERREG alone has that length. -/
def decodePair (b0 b1 : Byte) : Decoded :=
  if b0 = 0xE6 then .ok (.sensorWriteUserreg b1) else .reject .frameLength

/-- A write frame, its bytes in bus order. -/
def decodeFrame : List Byte → Decoded
  | [b] => decodeByte b
  | [b0, b1] => decodePair b0 b1
  | _ => .reject .frameLength

/-- The decoder of both spaces. -/
def decode : Encoded → Decoded
  | .command w => decodeCommand w
  | .frame bytes => decodeFrame bytes

/-- The words of an instruction, from the tables R80, R81 and R92 for commands and R82, R84 and R85 for frames. -/
def encode : Instr → Encoded
  | .getT => .command 0x00000001
  | .getH => .command 0x00000002
  | .getData => .command 0x00000003
  | .setPrecision p => .command (0x0000#16 ++ p ++ 0x04#8)
  | .softReset => .command 0x00000005
  | .waitSafe m => .command (0x0000#16 ++ 0b000000#6 ++ m ++ 0x06#8)
  | .sensorTrigTHold => .frame [0xE3]
  | .sensorTrigHHold => .frame [0xE5]
  | .sensorTrigTNohold => .frame [0xF3]
  | .sensorTrigHNohold => .frame [0xF5]
  | .sensorWriteUserreg code => .frame [0xE6, code]
  | .sensorReadUserreg => .frame [0xE7]
  | .sensorSoftReset => .frame [0xFE]

/-- The bytes of a frame that the opcode table numbers from bit 0 of its first byte: USERREG has two bytes (R82), every
other frame one. -/
def tableFrame (w : Nat) : List Byte :=
  if BitVec.ofNat 8 w = 0xE6 then [BitVec.ofNat 8 w, BitVec.ofNat 8 (w / 256)] else [BitVec.ofNat 8 w]

/-- What a row of the opcode table encodes: the rows of 32 bits are command words (format CMD32), the shorter ones
sensor frames (formats BUS8_...). Bits above `nbits` are 0. -/
def tableEncoded (nbits w : Nat) : Encoded :=
  if nbits ≤ 16 then .frame (tableFrame (w % 2 ^ nbits)) else .command (BitVec.ofNat 32 w)

/-- The instruction the decoder reads from an instruction whose bits are `w`, numbered as spec/opcode_table.json does. -/
def decodeTableWord (nbits w : Nat) : Option Instr :=
  (decode (tableEncoded nbits w)).instr?

/-- 0xE3 = 1110 0011 (R84). -/
theorem decode_trig_t_hold : decode (.frame [0b11100011]) = .ok .sensorTrigTHold := by decide
/-- 0xE5 = 1110 0101. -/
theorem decode_trig_h_hold : decode (.frame [0b11100101]) = .ok .sensorTrigHHold := by decide
/-- 0xF3 = 1111 0011. -/
theorem decode_trig_t_nohold : decode (.frame [0b11110011]) = .ok .sensorTrigTNohold := by decide
/-- 0xF5 = 1111 0101. -/
theorem decode_trig_h_nohold : decode (.frame [0b11110101]) = .ok .sensorTrigHNohold := by decide
/-- 0xE6 = 1110 0110, then the code RH11/T11 = 1000 0001 (R86). -/
theorem decode_write_userreg : decode (.frame [0b11100110, 0b10000001]) = .ok (.sensorWriteUserreg 0x81) := by decide
/-- 0xE7 = 1110 0111. -/
theorem decode_read_userreg : decode (.frame [0b11100111]) = .ok .sensorReadUserreg := by decide
/-- 0xFE = 1111 1110. -/
theorem decode_soft_reset_frame : decode (.frame [0b11111110]) = .ok .sensorSoftReset := by decide
/-- RSV1 = 0, ARG = 0, RSV0 = 0, OP = 0001 (R80, R81). -/
theorem decode_get_t : decode (.command 0b00000000000000000000000000000001) = .ok .getT := by decide
/-- OP = 0010. -/
theorem decode_get_h : decode (.command 0b00000000000000000000000000000010) = .ok .getH := by decide
/-- OP = 0011. -/
theorem decode_get_data : decode (.command 0b00000000000000000000000000000011) = .ok .getData := by decide
/-- OP = 0100, ARG = 1000 0001. -/
theorem decode_set_precision : decode (.command 0b00000000000000001000000100000100) = .ok (.setPrecision 0x81) := by
  decide
/-- OP = 0101. -/
theorem decode_soft_reset : decode (.command 0b00000000000000000000000000000101) = .ok .softReset := by decide
/-- OP = 0110, bit 9 = H set, bit 8 = T clear (R87). -/
theorem decode_wait_safe : decode (.command 0b00000000000000000000001000000110) = .ok (.waitSafe 0b10) := by decide

end Sys2Proof
end

