-- ==== Sys2Proof/Machine/State.lean ====
section
/-! DEFINITION. The state of the block: every piece spec/10_state.md names, the ports of one cycle (R41, R42) and the
model's own fields (the parameters, the environment's script and a cycle counter). Plain data throughout. -/

namespace Sys2Proof.Machine

/-- The ten values of `phase` (spec/10_state.md R21), in the rule's order. -/
inductive Phase where
  | initRst
  | initSettle
  | initPrec
  | idle
  | trig
  | delay
  | read
  | gap
  | wrcmd
  | waitsafe
  deriving DecidableEq, Repr, Inhabited

/-- The error codes of spec/60_exceptions.md R200; codes 5 to 7 are left out of the type (93 U3). -/
inductive ErrCode where
  | none
  | busError
  | timeout
  | invalidPrecision
  | illegalCommand
  deriving DecidableEq, Repr, Inhabited

/-- `wkind` of spec/10_state.md R39: which write WRCMD issues. -/
inductive WriteKind where
  | setp
  | srst
  deriving DecidableEq, Repr, Inhabited

/-- The width of a host access; only whole words are in the port's contract (spec/20_memory.md R61). -/
inductive AccessWidth where
  | byte
  | half
  | word
  deriving DecidableEq, Repr, Inhabited

/-- A host access at a byte offset (R41, R61). Accesses outside the contract can be written down, so that the step can
refuse them. -/
inductive HostAccess where
  | read (offset : Nat) (width : AccessWidth)
  | write (offset : Nat) (width : AccessWidth) (data : Word)
  deriving DecidableEq, Repr, Inhabited

/-- A response of the transport (spec/10_state.md R41, spec/20_memory.md R66, R67). -/
inductive Response where
  | wAck
  | wNack
  | rAck (b0 b1 b2 : Byte)
  | rNack
  deriving DecidableEq, Repr, Inhabited

/-- The inputs one cycle samples (spec/10_state.md R41). -/
structure CycleInput where
  rst : Bool
  tick : Bool
  host : Option HostAccess
  rsp : Option Response
  deriving DecidableEq, Repr, Inhabited

/-- A transaction the block starts (R42; spec/20_memory.md R66, R67). -/
inductive Txn where
  | busWrite (addr : BitVec 7) (bytes : List Byte)
  | busRead (addr : BitVec 7) (count : Nat)
  deriving DecidableEq, Repr, Inhabited

/-- An entry of the event history R42 asks of a model: every issue and every consumed response. -/
inductive Event where
  | issued (t : Txn)
  | consumed (r : Response)
  deriving DecidableEq, Repr, Inhabited

/-- The state of one quantity: its cache register (R27, R28), cache flags (R31), error field (R32) and cooldown timer
(R30). -/
structure Channel where
  /-- TEMP or HUMID. -/
  cache : Word
  /-- `VALID_q`. -/
  valid : Bool
  /-- `FRESH_q`. -/
  fresh : Bool
  /-- `T_ERR` or `H_ERR`. -/
  err : ErrCode
  /-- `SAFE_q`. -/
  safe : Bool
  /-- `CNT_q`, `CD_W` bits, held zero-extended. -/
  cnt : BitVec 32
  /-- `armed_this_cycle_q` (spec/42_cooldown.md R140): a wire, cleared at the start of every cycle. -/
  armedNow : Bool
  deriving DecidableEq, Repr, Inhabited

/-- The state of the block. -/
structure State where
  /-- R21. -/
  phase : Phase
  /-- R34. -/
  pend : Bool
  /-- `q_cur`, R35. -/
  qCur : Quantity
  /-- `then_h`, R35. -/
  thenH : Bool
  /-- R36: 1 is hold master. -/
  mode : Bool
  /-- R37. -/
  nacks : BitVec 8
  /-- R38. -/
  dcnt : BitVec 16
  /-- R39: bit 0 is T, bit 1 is H. -/
  wmask : BitVec 2
  /-- R39. -/
  wkind : WriteKind
  /-- R39. -/
  warg : Byte
  /-- CTRL.HOLD, R25. -/
  hold : Bool
  /-- PREC bits 7:0, R26. -/
  prec : Byte
  /-- The temperature. -/
  t : Channel
  /-- The humidity. -/
  h : Channel
  /-- `CMD_ERR`, R32. -/
  cmdErr : ErrCode
  /-- OVR, R33. -/
  ovr : Bool
  /-- Output of the last cycle, R42: the reply to a Read. -/
  rdata : Option Word
  /-- Output of the last cycle, R42: the transaction started. -/
  issue : Option Txn
  /-- R42: every issue and every consumed response, newest first. -/
  history : List Event
  /-- The MODEL's own: the parameters of spec/00_scope.md R6, which no step changes. -/
  cfg : Params
  /-- The MODEL's own: the inputs of the coming cycles, the next cycle's first. -/
  script : List CycleInput
  /-- The MODEL's own: how many cycles have run, the argument of the free draws of Config. -/
  cycle : Nat
  deriving DecidableEq, Repr, Inhabited

/-- A quantity after reset (R44): no data, safe, no error. -/
def Channel.reset : Channel where
  cache := noData
  valid := false
  fresh := false
  err := .none
  safe := true
  cnt := 0
  armedNow := false

/-- The block right after `rst` (R44), with the default parameters, nothing scripted and nothing recorded. -/
def State.reset : State where
  phase := .initRst
  pend := false
  qCur := .t
  thenH := false
  mode := false
  nacks := 0
  dcnt := 0
  wmask := 0
  wkind := .setp
  warg := 0x00
  hold := false
  prec := 0x00
  t := Channel.reset
  h := Channel.reset
  cmdErr := .none
  ovr := false
  rdata := none
  issue := none
  history := []
  cfg := Params.defaults
  script := []
  cycle := 0

/-- Why a step has no next state although the block itself raises no fault (spec/60_exceptions.md R219). -/
inductive Fault where
  /-- Raised by the cycle for a response outside spec/20_memory.md R68 (a) or (b): an input with no move. UNSAFE: the
  spec assumes that the transport never does it and says that this errs toward proving (93 U8, U11). -/
  | noMove
  deriving DecidableEq, Repr, Inhabited

/-- Why an input has no meaning. -/
inductive Refusal where
  /-- An instruction without its meaning: no arm of `exec` answers so. Safe. -/
  | notModelled (mnemonic : String)
  /-- Raised by the cycle for a host access outside spec/20_memory.md R61. Safe: it errs toward unprovable (93 U1). -/
  | hostAccess
  /-- Raised by the cycle for parameters outside spec/00_scope.md R6 and R7. Safe: it errs toward unprovable (93 U12). -/
  | badParameters
  /-- Raised by the frame 0xE7, which the block never issues (spec/30_encoding.md R89). Safe: the block has no such move. -/
  | neverIssued
  deriving DecidableEq, Repr, Inhabited

end Sys2Proof.Machine
end

