-- ==== Sys2Proof/Machine/Ops.lean ====
section
/-! DEFINITION. The named operations over the state that the rules share: the transaction port (spec/41_measurement.md
R110), the waits (R111, R112), the cooldown timers (spec/42_cooldown.md), the end of a measurement (R118) and the
acceptance of a command (spec/43_commands.md R160). The block takes no exception (spec/60_exceptions.md R212): recording
an error is its whole error handling (R203). -/

namespace Sys2Proof.Machine

/-- The answer of a meaning. -/
abbrev Result := Host.Outcome State Fault Refusal

/-- Run `f` on the next state, if there is one. -/
def chain (r : Result) (f : State → Result) : Result :=
  match r with
  | .next s => f s
  | .fault e => .fault e
  | .refused e => .refused e

/-! ### Per-quantity state -/

/-- The state of quantity `q` (spec/00_scope.md R11). -/
def State.chan (s : State) : Quantity → Channel
  | .t => s.t
  | .h => s.h

/-- Replace the state of quantity `q`; the other quantity keeps its own (spec/42_cooldown.md R145). -/
def State.setChan (s : State) (q : Quantity) (c : Channel) : State :=
  match q with
  | .t => { s with t := c }
  | .h => { s with h := c }

/-- Record an error of a measurement: the code and nothing else (spec/60_exceptions.md R201). -/
def recordErr (q : Quantity) (e : ErrCode) (s : State) : State :=
  s.setChan q { s.chan q with err := e }

/-- Store a decoded sample: cache, VALID and FRESH (spec/41_measurement.md R118). -/
def storeSample (q : Quantity) (n : Word) (s : State) : State :=
  s.setChan q { s.chan q with cache := n, valid := true, fresh := true }

/-- `Arm(q)`, spec/42_cooldown.md R140. -/
def arm (q : Quantity) (s : State) : State :=
  s.setChan q { s.chan q with cnt := s.cfg.cooldownTicks, safe := s.cfg.cooldownTicks == 0, armedNow := true }

/-! ### The cooldown timers -/

/-- One timer sees a tick (R141). An armed one ignores it (R142), a SAFE one too. -/
def tickChannel (c : Channel) : Channel :=
  if c.armedNow || c.safe then c
  else if c.cnt = 0 then { c with safe := true }
  else { c with cnt := c.cnt - 1 }

/-- `CooldownTick` (R141): it writes nothing but the two timers. -/
def cooldownTick (tick : Bool) (s : State) : State :=
  if tick then { s with t := tickChannel s.t, h := tickChannel s.h } else s

/-! ### The transaction port -/

/-- Start a transaction: `issue <- req; pend <- 1` (spec/41_measurement.md R110), recorded in the history (R42). -/
def startTxn (t : Txn) (s : State) : State :=
  { s with issue := some t, pend := true, history := .issued t :: s.history }

/-- Start a write frame on the port. None is started while one is outstanding (spec/10_state.md R42): the port then
holds. -/
def issueWrite (bytes : List Byte) (s : State) : State :=
  if s.pend then s else startTxn (.busWrite s.cfg.devAddr bytes) s

/-- Consume a response: `pend <- 0` (R110), recorded in the history (R42). -/
def consume (r : Response) (s : State) : State :=
  { s with pend := false, history := .consumed r :: s.history }

/-- `BusPhase(req, on_response)` of R110. -/
def busPhase (req : State → Result) (onResponse : Response → State → State) (rsp : Option Response) (s : State) :
    Result :=
  if s.pend then
    match rsp with
    | some r => .next (onResponse r (consume r s))
    | none => .next s
  else req s

/-! ### Waits -/

/-- `EnterDelay(N, delay_phase, next_phase)` of R111. -/
def enterDelay (n : BitVec 16) (delayPhase nextPhase : Phase) (s : State) : State :=
  if n = 0 then { s with phase := nextPhase } else { s with dcnt := n, phase := delayPhase }

/-- `DelayPhase(next_phase)` of R112. -/
def waitDelay (nextPhase : Phase) (tick : Bool) (s : State) : State :=
  if tick then
    (if s.dcnt = 0 then { s with phase := nextPhase } else { s with dcnt := s.dcnt - 1 })
  else s

/-! ### Measurements -/

/-- Start a measurement of `q` (spec/43_commands.md R162 to R164). -/
def startMeasurement (q : Quantity) (thenH : Bool) (s : State) : State :=
  { s with qCur := q, thenH := thenH, phase := .trig }

/-- The tail of `Finish` (spec/41_measurement.md R118): GET_DATA goes on with humidity, everything else ends. -/
def endMeasurement (q : Quantity) (s : State) : State :=
  if q = .t ∧ s.thenH = true then { s with qCur := .h, thenH := false, phase := .trig }
  else { s with phase := .idle }

/-- `Finish(q, Ok(n))` of R118. -/
def finishOk (q : Quantity) (n : Word) (s : State) : State :=
  endMeasurement q (arm q (storeSample q n s))

/-- `Finish(q, Fail(e))` of R118: cache, VALID and cooldown untouched. -/
def finishFail (q : Quantity) (e : ErrCode) (s : State) : State :=
  endMeasurement q (recordErr q e s)

/-! ### Commands -/

/-- The clears of `Accept` and the latch of the mode (spec/43_commands.md R160). -/
def acceptClears (s : State) : State :=
  { s with
    t := { s.t with fresh := false, err := .none }
    h := { s.h with fresh := false, err := .none }
    cmdErr := .none
    mode := s.hold }

/-- A command word written to CMD: accepted in IDLE (R160), in any other phase dropped with OVR set
(spec/20_memory.md R63). -/
def acceptCommand (body : State → State) (s : State) : State :=
  if s.phase = .idle then body (acceptClears s) else { s with ovr := true }

/-! ### Reset and the cycle's frame -/

/-- The start of a cycle: the inputs are taken from the script, the outputs and wires of the last cycle are gone. -/
def beginCycle (s : State) : State :=
  { s with
    script := s.script.tail
    cycle := s.cycle + 1
    rdata := none
    issue := none
    t := { s.t with armedNow := false }
    h := { s.h with armedNow := false } }

/-- `ResetState` (spec/70_reset_and_hazards.md R220, spec/10_state.md R44): every piece of the block's state. The
parameters, the environment's script, the counter and the record of past events are not the block's state. -/
def resetBlock (s : State) : State :=
  { State.reset with cfg := s.cfg, script := s.script, cycle := s.cycle, history := s.history }

end Sys2Proof.Machine
end

