-- ==== Sys2Proof/Machine/Configure.lean ====
section
/-! DEFINITION. The configuration commands SET_PRECISION and SOFT_RESET (spec/43_commands.md R166, R168), the
synchronisation command WAIT_SAFE (R169) and the illegal command (R161). -/

namespace Sys2Proof.Machine

/-- SET_PRECISION p, R166: the code is checked before anything reaches the bus. -/
def execSetPrecision (p : Byte) (s : State) : Result :=
  .next (acceptCommand
    (fun a =>
      if validPrecision p then { a with wkind := .setp, warg := p, phase := .wrcmd }
      else { a with cmdErr := .invalidPrecision }) s)

/-- SOFT_RESET, R168. -/
def execSoftReset (s : State) : Result :=
  .next (acceptCommand (fun a => { a with wkind := .srst, phase := .wrcmd }) s)

/-- WAIT_SAFE m, R169. -/
def execWaitSafe (m : BitVec 2) (s : State) : Result :=
  .next (acceptCommand (fun a => { a with wmask := m, phase := .waitsafe }) s)

/-- A word written to CMD that is no command: accepted in IDLE, it records ILLEGAL_COMMAND and nothing else (R161). -/
def illegalCommand (s : State) : State :=
  acceptCommand (fun a => { a with cmdErr := .illegalCommand }) s

end Sys2Proof.Machine
end

