-- ==== Sys2Proof/Machine/Frames.lean ====
section
/-! DEFINITION. The sensor frames (spec/30_encoding.md R82, R84): what the block does when one of its bus phases puts
the frame on the port (spec/41_measurement.md R110). What the sensor does with it is outside the block (R5). -/

namespace Sys2Proof.Machine

/-- [0xE3], trigger temperature, hold master. -/
def execSensorTrigTHold (s : State) : Result := .next (issueWrite (encodeTrigger .t true) s)

/-- [0xE5], trigger humidity, hold master. -/
def execSensorTrigHHold (s : State) : Result := .next (issueWrite (encodeTrigger .h true) s)

/-- [0xF3], trigger temperature, no hold master. -/
def execSensorTrigTNohold (s : State) : Result := .next (issueWrite (encodeTrigger .t false) s)

/-- [0xF5], trigger humidity, no hold master. -/
def execSensorTrigHNohold (s : State) : Result := .next (issueWrite (encodeTrigger .h false) s)

/-- [0xE6, code], write user register. -/
def execSensorWriteUserreg (code : Byte) (s : State) : Result := .next (issueWrite (encodeUserRegister code) s)

/-- 0xE7, read user register: never issued by the block (R89), and no format of R82 carries it. -/
def execSensorReadUserreg (_s : State) : Result := .refused .neverIssued

/-- [0xFE], soft reset. -/
def execSensorSoftReset (s : State) : Result := .next (issueWrite resetFrame s)

end Sys2Proof.Machine
end

