-- ==== Sys2Proof/Machine/Measure.lean ====
section
/-! DEFINITION. The measurement commands GET_T, GET_H and GET_DATA (spec/43_commands.md R162 to R164). -/

namespace Sys2Proof.Machine

/-- GET_T, R162: a measurement if the temperature timer is SAFE, else nothing (the cached value stands). -/
def execGetT (s : State) : Result :=
  .next (acceptCommand (fun a => if a.t.safe then startMeasurement .t false a else a) s)

/-- GET_H, R163. -/
def execGetH (s : State) : Result :=
  .next (acceptCommand (fun a => if a.h.safe then startMeasurement .h false a else a) s)

/-- GET_DATA, R164: temperature, then humidity through `Finish`, if both timers are SAFE. -/
def execGetData (s : State) : Result :=
  .next (acceptCommand (fun a => if a.t.safe && a.h.safe then startMeasurement .t true a else a) s)

end Sys2Proof.Machine
end

