-- ==== Sys2Proof/Machine/Dispatch.lean ====
section
/-! DEFINITION. The dispatch: one arm per row of spec/opcode_table.json. -/

namespace Sys2Proof.Machine

def exec (i : Instr) (s : State) : Host.Outcome State Fault Refusal :=
  match i with
  | .getT => Sys2Proof.Machine.execGetT s
  | .getH => Sys2Proof.Machine.execGetH s
  | .getData => Sys2Proof.Machine.execGetData s
  | .setPrecision p => Sys2Proof.Machine.execSetPrecision p s
  | .softReset => Sys2Proof.Machine.execSoftReset s
  | .waitSafe m => Sys2Proof.Machine.execWaitSafe m s
  | .sensorTrigTHold => Sys2Proof.Machine.execSensorTrigTHold s
  | .sensorTrigHHold => Sys2Proof.Machine.execSensorTrigHHold s
  | .sensorTrigTNohold => Sys2Proof.Machine.execSensorTrigTNohold s
  | .sensorTrigHNohold => Sys2Proof.Machine.execSensorTrigHNohold s
  | .sensorWriteUserreg code => Sys2Proof.Machine.execSensorWriteUserreg code s
  | .sensorReadUserreg => Sys2Proof.Machine.execSensorReadUserreg s
  | .sensorSoftReset => Sys2Proof.Machine.execSensorSoftReset s

end Sys2Proof.Machine
end

