-- ==== Sys2Proof/Machine/Flags.lean ====
section
/-! DEFINITION. The flags and the registers as the host reads them: the error codes (spec/60_exceptions.md R200), STATUS
(spec/10_state.md R24) and RegRead (spec/20_memory.md R62). -/

namespace Sys2Proof.Machine

/-- The 3-bit code of an error (spec/60_exceptions.md R200). -/
def errBits : ErrCode → BitVec 3
  | .none => 0
  | .busError => 1
  | .timeout => 2
  | .invalidPrecision => 3
  | .illegalCommand => 4

/-- `STATUS.BUSY` (spec/10_state.md R46). -/
def busy (s : State) : Bool := s.phase != .idle

/-- STATUS, the concatenation of spec/20_memory.md R62. -/
def statusWord (s : State) : Word :=
  0#13 ++ errBits s.cmdErr ++ 0#1 ++ errBits s.h.err ++ 0#1 ++ errBits s.t.err
    ++ BitVec.ofBool s.ovr ++ BitVec.ofBool s.h.fresh ++ BitVec.ofBool s.t.fresh
    ++ BitVec.ofBool s.h.valid ++ BitVec.ofBool s.t.valid
    ++ BitVec.ofBool s.h.safe ++ BitVec.ofBool s.t.safe ++ BitVec.ofBool (busy s)

/-- `RegRead(s, a)` of R62, at the eight offsets of the port's contract; any other offset is refused before it is read
(R61). -/
def regRead (s : State) (offset : Nat) : Word :=
  match offset with
  | 0x04 => statusWord s
  | 0x08 => (BitVec.ofBool s.hold).zeroExtend 32
  | 0x0C => s.prec.zeroExtend 32
  | 0x10 => s.t.cache
  | 0x14 => s.h.cache
  | 0x18 => s.t.cnt
  | 0x1C => s.h.cnt
  | _ => 0

end Sys2Proof.Machine
end

