-- ==== Sys2Proof/Machine/HostPort.lean ====
section
/-! DEFINITION. The host register port (spec/20_memory.md R61 to R63, R72) and the host's pseudo-instructions
(spec/30_encoding.md R92). -/

namespace Sys2Proof.Machine

/-- The contract of R61: whole aligned words at 0x00 to 0x1C. -/
def offsetAdmitted (offset : Nat) (width : AccessWidth) : Bool :=
  width == .word && offset % 4 == 0 && decide (offset < 0x20)

/-- Is the host's input of a cycle within R61. -/
def hostAdmitted : Option HostAccess → Bool
  | none => true
  | some (.read offset width) => offsetAdmitted offset width
  | some (.write offset width _) => offsetAdmitted offset width

/-- A word written to CMD (spec/10_state.md R23): a command runs as its instruction, any other word is R161's. -/
def writeCommand (w : Word) (s : State) : Result :=
  match decode (.command w) with
  | .ok i => exec i s
  | .reject _ => .next (illegalCommand s)

/-- `RegWrite(s, a, w)` of R63; the registers at 0x0C to 0x1C ignore writes. -/
def regWrite (offset : Nat) (w : Word) (s : State) : Result :=
  match offset with
  | 0x00 => writeCommand w s
  | 0x04 => .next (if w.getLsbD 7 then { s with ovr := false } else s)
  | 0x08 => .next { s with hold := w.getLsbD 0 }
  | _ => .next s

/-- `HostAccess` of spec/10_state.md R43. -/
def hostStep (host : Option HostAccess) (s : State) : Result :=
  match host with
  | none => .next s
  | some (.read offset _) => .next { s with rdata := some (regRead s offset) }
  | some (.write offset _ w) => regWrite offset w s

/-- The offset in the window of a system address, `REG_BASE` being the integrator's (R72, 93 U14); none outside the
window. -/
def windowOffset (address : Nat) : Option Nat :=
  if Config.regBase ≤ address ∧ address < Config.regBase + 0x20 then some (address - Config.regBase) else none

/-- `sw CMD, w` (spec/30_encoding.md R91). -/
def storeCommand (w : Word) : HostAccess := .write 0x00 .word w

/-- `CLR_OVR` of R92. -/
def clrOvr : HostAccess := .write 0x04 .word 0x00000080

/-- `SET_HOLD b` of R92. -/
def setHold (b : Bool) : HostAccess := .write 0x08 .word ((BitVec.ofBool b).zeroExtend 32)

/-- `lw rN, STATUS`, the poll of `WAIT_IDLE` (R92). -/
def loadStatus : HostAccess := .read 0x04 .word

end Sys2Proof.Machine
end

