-- ==== Sys2Proof/Machine/Phases.lean ====
section
/-! DEFINITION. The readout state machine, one arm per phase (spec/10_state.md R43): spec/41_measurement.md R113 to
R117, spec/43_commands.md R167 and R169, spec/70_reset_and_hazards.md R222 and R223. -/

namespace Sys2Proof.Machine

/-- The write frame a bus phase puts on the port, in bus order; none in the other phases and in READ, whose transaction
is a read (spec/10_state.md R21). -/
def phaseFrame (s : State) : Option (List Byte) :=
  match s.phase with
  | .initRst => some resetFrame
  | .initPrec => some (encodeUserRegister s.cfg.initPrecision)
  | .trig => some (encodeTrigger s.qCur s.mode)
  | .wrcmd =>
    match s.wkind with
    | .setp => some (encodeUserRegister s.warg)
    | .srst => some resetFrame
  | .initSettle | .idle | .delay | .read | .gap | .waitsafe => none

/-- Issue the phase's frame: the frame runs as its instruction. A byte that is none of R84's is never issued
(spec/30_encoding.md R89). -/
def issueFrame (s : State) : Result :=
  match phaseFrame s with
  | none => .next s
  | some bytes =>
    match decode (.frame bytes) with
    | .ok i => exec i s
    | .reject _ => .refused .neverIssued

/-- Issue the 3-byte read of READ (spec/20_memory.md R67). -/
def issueRead (s : State) : Result := .next (startTxn (.busRead s.cfg.devAddr 3) s)

/-- The transactions a response can answer (spec/20_memory.md R68 (b)). -/
inductive BusKind where
  | write
  | read
  deriving DecidableEq, Repr

/-- The kind of the transaction outstanding in a bus phase (spec/10_state.md R21). -/
def outstandingKind : Phase → Option BusKind
  | .initRst | .initPrec | .trig | .wrcmd => some .write
  | .read => some .read
  | .initSettle | .idle | .delay | .gap | .waitsafe => none

/-- The kind of transaction a response answers. -/
def responseKind : Response → BusKind
  | .wAck | .wNack => .write
  | .rAck _ _ _ | .rNack => .read

/-- The transport's contract, R68 (a) and (b). -/
def responseAdmitted (s : State) : Option Response → Bool
  | none => true
  | some r => s.pend && outstandingKind s.phase == some (responseKind r)

/-- TRIG, spec/41_measurement.md R113. -/
def onTrig (r : Response) (s : State) : State :=
  match r with
  | .wAck =>
    if s.mode then enterDelay (s.cfg.holdDelay s.qCur) .delay .read { s with nacks := 0 }
    else { s with nacks := 0, phase := .read }
  | .wNack => finishFail s.qCur .busError s
  | .rAck _ _ _ | .rNack => s

/-- READ, R115 for an acknowledged read and R116 for one that is not. -/
def onRead (r : Response) (s : State) : State :=
  match r with
  | .rAck b0 b1 _ => finishOk s.qCur (decodeSample s.qCur b0 b1) s
  | .rNack =>
    if s.mode then finishFail s.qCur .busError s
    else if s.nacks.toNat + 1 ≥ (s.cfg.pollMax s.qCur).toNat then finishFail s.qCur .timeout s
    else enterDelay s.cfg.pollGap .gap .read { s with nacks := s.nacks + 1 }
  | .wAck | .wNack => s

/-- WRCMD, spec/43_commands.md R167. -/
def onWrcmd (r : Response) (s : State) : State :=
  match r with
  | .wAck =>
    match s.wkind with
    | .setp => { s with prec := s.warg, phase := .idle }
    | .srst => { s with phase := .idle }
  | .wNack => { s with cmdErr := .busError, phase := .idle }
  | .rAck _ _ _ | .rNack => s

/-- INIT_RST, spec/70_reset_and_hazards.md R222: initialisation goes on whatever the answer. -/
def onInitRst (r : Response) (s : State) : State :=
  match r with
  | .wAck => enterDelay s.cfg.resetSettle .initSettle .initPrec s
  | .wNack => enterDelay s.cfg.resetSettle .initSettle .initPrec { s with cmdErr := .busError }
  | .rAck _ _ _ | .rNack => s

/-- INIT_PREC, R223. -/
def onInitPrec (r : Response) (s : State) : State :=
  match r with
  | .wAck => { s with prec := s.cfg.initPrecision, phase := .idle }
  | .wNack => { s with cmdErr := .busError, phase := .idle }
  | .rAck _ _ _ | .rNack => s

/-- The condition of WAITSAFE, spec/43_commands.md R169: every selected timer is SAFE. -/
def waitSatisfied (s : State) : Bool :=
  (!s.wmask.getLsbD 0 || s.t.safe) && (!s.wmask.getLsbD 1 || s.h.safe)

/-- `FsmStep` of spec/10_state.md R43: the arm of phase `p`, the phase at the start of the cycle. In IDLE the arm is the
acceptance, which the host's write has already run. -/
def fsmStep (p : Phase) (tick : Bool) (rsp : Option Response) (s : State) : Result :=
  match p with
  | .idle => .next s
  | .initRst => busPhase issueFrame onInitRst rsp s
  | .initSettle => .next (waitDelay .initPrec tick s)
  | .initPrec => busPhase issueFrame onInitPrec rsp s
  | .trig => busPhase issueFrame onTrig rsp s
  | .delay => .next (waitDelay .read tick s)
  | .read => busPhase issueRead onRead rsp s
  | .gap => .next (waitDelay .read tick s)
  | .wrcmd => busPhase issueFrame onWrcmd rsp s
  | .waitsafe => .next (if waitSatisfied s then { s with phase := .idle } else s)

end Sys2Proof.Machine
end

