-- ==== Sys2Proof/Machine/Cycle.lean ====
section
/-! DEFINITION. One clock cycle (spec/10_state.md R43): its inputs, their contracts, and the order of its parts. The
parts run one after another; each reads only fields that no earlier part of the same cycle writes, except that a timer
which `Arm` has just loaded ignores the tick, so the result is that of the rule's merge (R40). -/

namespace Sys2Proof.Machine

/-- The host access of a free draw: within the port's contract. -/
def freeHost (n : Nat) : Option HostAccess :=
  if Config.freeHostActive n then
    some (if Config.freeHostWrites n then .write (4 * (Config.freeHostReg n).toNat) .word (Config.freeHostData n)
      else .read (4 * (Config.freeHostReg n).toNat) .word)
  else none

/-- The response of a free draw: within the transport's contract (spec/20_memory.md R68). -/
def freeResponse (s : State) : Option Response :=
  if s.pend && Config.freeAnswers s.cycle then
    match outstandingKind s.phase with
    | some .write => some (if Config.freeAcks s.cycle then .wAck else .wNack)
    | some .read =>
      some (if Config.freeAcks s.cycle then
          .rAck (Config.freeByte s.cycle 0) (Config.freeByte s.cycle 1) (Config.freeByte s.cycle 2)
        else .rNack)
    | none => none
  else none

/-- The inputs of a cycle for which nothing is scripted: each a free draw (spec/10_state.md R41, log entry 1). -/
def freeInput (s : State) : CycleInput where
  rst := Config.freeRst s.cycle
  tick := Config.freeTick s.cycle
  host := freeHost s.cycle
  rsp := freeResponse s

/-- The inputs of this cycle: the next of the script, or a free draw where the script is empty. -/
def cycleInput (s : State) : CycleInput :=
  match s.script with
  | [] => freeInput s
  | inp :: _ => inp

/-- The parts of a cycle without reset, from the state at its start: the host's access, the arm of the phase, the tick
(R43). -/
def runParts (inp : CycleInput) (s : State) : Result :=
  chain (hostStep inp.host s) fun s1 =>
    chain (fsmStep s.phase inp.tick inp.rsp s1) fun s2 => .next (cooldownTick inp.tick s2)

/-- A cycle with the inputs `inp`: `rst` overrides everything (spec/70_reset_and_hazards.md R220); an access outside R61
is refused; a response outside R68 has no move; else the parts run. -/
def runCycle (inp : CycleInput) (s : State) : Result :=
  if inp.rst then .next (resetBlock s)
  else if !hostAdmitted inp.host then .refused .hostAccess
  else if !responseAdmitted s inp.rsp then .fault .noMove
  else runParts inp s

/-- One step: parameters outside spec/00_scope.md R6 and R7 are refused, else one cycle runs. -/
def stepCycle (s : State) : Result :=
  if !paramsAdmitted s.cfg then .refused .badParameters else runCycle (cycleInput s) (beginCycle s)

/-! ### Placing an instruction where the next step runs it (log entry 4) -/

/-- A cycle in which nothing happens on any input. -/
def quiet : CycleInput where
  rst := false
  tick := false
  host := none
  rsp := none

/-- A command word: the block idle, and the host writes the word to CMD in the next cycle. -/
def placeCommand (w : Word) (s : State) : State :=
  { s with
    phase := .idle
    pend := false
    script := { quiet with host := some (storeCommand w) } :: s.script }

/-- A sensor frame: the block at the start of a phase that issues it (spec/30_encoding.md R84), and a quiet cycle. No
phase issues 0xE7 or an unlisted byte: nothing is placed then. -/
def placeFrame (bytes : List Byte) (s : State) : State :=
  let trig (q : Quantity) (hold : Bool) : State :=
    { s with phase := .trig, pend := false, qCur := q, mode := hold, script := quiet :: s.script }
  match decode (.frame bytes) with
  | .ok .sensorTrigTHold => trig .t true
  | .ok .sensorTrigHHold => trig .h true
  | .ok .sensorTrigTNohold => trig .t false
  | .ok .sensorTrigHNohold => trig .h false
  | .ok (.sensorWriteUserreg code) =>
    { s with phase := .wrcmd, pend := false, wkind := .setp, warg := code, script := quiet :: s.script }
  | .ok .sensorSoftReset => { s with phase := .wrcmd, pend := false, wkind := .srst, script := quiet :: s.script }
  | _ => s

/-- Place the instruction with the given bits. -/
def placeEncoded (e : Encoded) (s : State) : State :=
  match e with
  | .command w => placeCommand w s
  | .frame bytes => placeFrame bytes s

end Sys2Proof.Machine
end

