-- ==== Sys2Proof/Safety.lean ====
section
/-! DEFINITION. The terms the statements use: what a good state is (spec/10_state.md R45), which transactions the block
may issue (spec/20_memory.md R66, R67), the inputs of a cycle, and the physical value of a sample (spec/00_scope.md R12). -/

namespace Sys2Proof.Machine

/-! ### Good states -/

/-- The phases of a measurement (spec/41_measurement.md). -/
def Phase.measuring : Phase → Bool
  | .trig | .delay | .read | .gap => true
  | .initRst | .initSettle | .initPrec | .idle | .wrcmd | .waitsafe => false

/-- Clauses (a) and (b) of spec/10_state.md R45 for one quantity. -/
abbrev Channel.Facts (c : Channel) : Prop :=
  (c.safe = true → c.cnt = 0) ∧ (c.valid = false ↔ c.cache = noData)

/-- The five clauses (a) to (e) of R45. -/
abbrev State.Facts (s : State) : Prop :=
  s.t.Facts ∧ s.h.Facts
    ∧ validPrecision s.prec = true
    ∧ (s.pend = true → (outstandingKind s.phase).isSome = true)
    ∧ (s.phase = .read ∨ s.phase = .gap → s.mode = false → s.nacks.toNat < (s.cfg.pollMax s.qCur).toNat)

/-- What the clauses of R45 need to be kept by every step, each a consequence of the rules: the parameters are admitted
(R6, R7); a counter is at most COOLDOWN_TICKS, so it fits CD_W bits (R30, R140); DELAY is entered in hold mode only
(R114); WRCMD carries a valid code (R166); the quantity measured, and the one to follow, are SAFE (R140: "every
measurement starts only from SAFE"). -/
abbrev State.Support (s : State) : Prop :=
  paramsAdmitted s.cfg = true
    ∧ s.t.cnt.toNat ≤ s.cfg.cooldownTicks.toNat ∧ s.h.cnt.toNat ≤ s.cfg.cooldownTicks.toNat
    ∧ (s.phase = .delay → s.mode = true)
    ∧ (s.phase = .wrcmd → s.wkind = .setp → validPrecision s.warg = true)
    ∧ (s.phase.measuring = true → (s.chan s.qCur).safe = true)
    ∧ (s.phase.measuring = true → s.thenH = true → s.qCur = .t ∧ s.h.safe = true)

/-- The invariant of the block. -/
abbrev State.Inv (s : State) : Prop := s.Facts ∧ s.Support

/-! ### Transactions -/

/-- The transactions the block issues (spec/20_memory.md R66, R67; spec/30_encoding.md R82, R84): the three write frames
with the six bytes marked "yes", a USERREG code being a precision code, and the 3-byte read; all to DEV_ADDR. -/
def txnAllowed (cfg : Params) : Txn → Bool
  | .busWrite addr bytes =>
    addr == cfg.devAddr &&
      match bytes with
      | [b] => b == 0xE3 || b == 0xE5 || b == 0xF3 || b == 0xF5 || b == 0xFE
      | [b, c] => b == 0xE6 && validPrecision c
      | _ => false
  | .busRead addr count => addr == cfg.devAddr && count == 3

/-- The reads a measurement of `q` may issue: one in hold mode, `POLL_MAX_q` in no-hold mode (spec/41_measurement.md
R119). -/
def readBound (s : State) (q : Quantity) : Nat := if s.mode then 1 else (s.cfg.pollMax q).toNat

/-- The transactions that a measurement in progress may still issue, those of the humidity measurement that follows
included (R120: at most `1 + POLL_MAX_q` each). -/
def txnBudget (s : State) : Nat :=
  let done := if s.pend then 1 else 0
  let after := if s.thenH then 1 + readBound s .h else 0
  match s.phase with
  | .trig => (1 + readBound s s.qCur) - done + after
  | .delay => readBound s s.qCur + after
  | .read | .gap => readBound s s.qCur - (if s.mode then 0 else s.nacks.toNat) - done + after
  | .initRst | .initSettle | .initPrec | .idle | .wrcmd | .waitsafe => 0

/-! ### The inputs of a cycle -/

/-- The cycle that starts in `s` is without reset and has these inputs, the host's access within its contract and the
parameters admitted. -/
abbrev Given (s : State) (host : Option HostAccess) (tick : Bool) (rsp : Option Response) : Prop :=
  paramsAdmitted s.cfg = true ∧ hostAdmitted host = true
    ∧ cycleInput s = { rst := false, tick := tick, host := host, rsp := rsp }

/-- What a host access does while the block is busy (spec/20_memory.md R62, R63): a read returns the register, a write
to CMD sets OVR, STATUS bit 7 clears it, a write to CTRL sets HOLD. In IDLE every access but a write to CMD does the same. -/
def busyHost (host : Option HostAccess) (s : State) : State :=
  match host with
  | none => s
  | some (.read offset _) => { s with rdata := some (regRead s offset) }
  | some (.write offset _ w) =>
    { s with
      ovr := if offset = 0x00 then true else if offset = 0x04 ∧ w.getLsbD 7 = true then false else s.ovr
      hold := if offset = 0x08 then w.getLsbD 0 else s.hold }

/-- How many cycles of a script tick. -/
def ticks (l : List CycleInput) : Nat := l.countP fun inp => inp.tick

/-- A script without reset. -/
abbrev noReset (l : List CycleInput) : Prop := ∀ inp ∈ l, inp.rst = false

/-- The next phase of a delay phase (spec/10_state.md R21; spec/41_measurement.md R114, R117; spec/70 R222). -/
def delayExit : Phase → Option Phase
  | .initSettle => some .initPrec
  | .delay | .gap => some .read
  | .initRst | .initPrec | .idle | .trig | .read | .wrcmd | .waitsafe => none

/-! ### Physical values -/

/-- `phys(N) = N / 6553600` (spec/00_scope.md R12), in degrees Celsius or percent relative humidity. -/
def phys (n : Int) : Rat := (n : Rat) / 6553600

/-- The poll budget of spec/00_scope.md R7 for a conversion time, with the bus time of one attempt, all in
microseconds: an integration obligation, which no step checks. -/
def pollBudgetMet (cfg : Params) (q : Quantity) (attemptUs conversionUs : Nat) : Prop :=
  conversionUs ≤ (cfg.pollMax q).toNat * attemptUs
    + ((cfg.pollMax q).toNat - 1) * cfg.pollGap.toNat * cfg.tickPeriodUs

end Sys2Proof.Machine
end

