-- ==== Sys2Proof/Certificates/Slice0/Obligations.lean ====
section
/-! DEFINITION. The statements for the provers, from the numbered rules of spec/. -/

open Sys2Proof Sys2Proof.Machine

/-! ### Encoding -/

/-- Words written out from spec/30_encoding.md R80, R81, R87 and R92, one or more per command, with words R89 calls
illegal; and the bytes of R84, each the instruction its row names, in the frames of R82. That a lone 0xE6 is rejected as
`frameLength`, and the names of all rejections, are the model's reading of R82 (log entry 13). -/
def Obligations.WordsDecode : Prop :=
  decode (.command 0x00000001) = .ok .getT ∧ decode (.command 0x00000002) = .ok .getH
    ∧ decode (.command 0x00000003) = .ok .getData ∧ decode (.command 0x00008104) = .ok (.setPrecision 0x81)
    ∧ decode (.command 0x0000FF04) = .ok (.setPrecision 0xFF) ∧ decode (.command 0x00000005) = .ok .softReset
    ∧ decode (.command 0x00000106) = .ok (.waitSafe 0b01) ∧ decode (.command 0x00000306) = .ok (.waitSafe 0b11)
    ∧ decode (.command 0x00000000) = .reject .unknownOpcode ∧ decode (.command 0x00000007) = .reject .unknownOpcode
    ∧ decode (.command 0x00000101) = .reject .nonzeroArg ∧ decode (.command 0x00000406) = .reject .nonzeroArg
    ∧ decode (.command 0x00000014) = .reject .reservedBits ∧ decode (.command 0x80000001) = .reject .reservedBits
    ∧ decode (.frame [0xE3]) = .ok .sensorTrigTHold ∧ decode (.frame [0xE5]) = .ok .sensorTrigHHold
    ∧ decode (.frame [0xF3]) = .ok .sensorTrigTNohold ∧ decode (.frame [0xF5]) = .ok .sensorTrigHNohold
    ∧ decode (.frame [0xE6, 0x80]) = .ok (.sensorWriteUserreg 0x80)
    ∧ decode (.frame [0xE7]) = .ok .sensorReadUserreg ∧ decode (.frame [0xFE]) = .ok .sensorSoftReset
    ∧ decode (.frame [0xE6]) = .reject .frameLength ∧ decode (.frame [0xE2]) = .reject .unknownSensorByte

/-- Decoding and encoding agree both ways: every well-formed instruction, with every operand its encoding admits, is read
back from its own words; and each word and each frame has one meaning, what decodes to an instruction being that
instruction's encoding. -/
def Obligations.DecodeAndEncodeAgree : Prop :=
  (∀ i : Instr, i.wf = true → decode (encode i) = .ok i)
    ∧ ∀ (e : Encoded) (i : Instr), decode e = .ok i → encode i = e

/-- spec/30_encoding.md R88: the words that decode are the legal ones, by the rule's own formula on the bits. -/
def Obligations.DecodesExactlyLegalWords : Prop :=
  ∀ w : Word, (∃ i, decode (.command w) = .ok i) ↔
    (w.extractLsb 31 16 = 0 ∧ w.extractLsb 7 4 = 0
      ∧ (((w.extractLsb 3 0 = 0x1 ∨ w.extractLsb 3 0 = 0x2 ∨ w.extractLsb 3 0 = 0x3 ∨ w.extractLsb 3 0 = 0x5)
            ∧ w.extractLsb 15 8 = 0x00)
        ∨ w.extractLsb 3 0 = 0x4
        ∨ (w.extractLsb 3 0 = 0x6 ∧ w.extractLsb 15 10 = 0)))

/-- spec/30_encoding.md R85, the table and the bit pattern derived from it; spec/40_codec.md R100. -/
def Obligations.TriggerBytes : Prop :=
  encodeTrigger .t true = [0xE3] ∧ encodeTrigger .h true = [0xE5]
    ∧ encodeTrigger .t false = [0xF3] ∧ encodeTrigger .h false = [0xF5]
    ∧ ∀ (q : Quantity) (m : Bool), (triggerByte q m).getLsbD 4 = !m
        ∧ (triggerByte q m).getLsbD 2 = decide (q = .h) ∧ (triggerByte q m).getLsbD 1 = decide (q = .t)

/-! ### Codec -/

/-- spec/40_codec.md R104: for every pair of bytes the decoded `int32` is exact, lies in the stated range, in the stated
steps, with its product below 2^31, is never the no-data sentinel, and leaves the physical range at exactly the stated
thresholds (all in the units of R12). -/
def Obligations.DecodeRangeAndWidth : Prop :=
  ∀ b0 b1 : Byte,
    let m := (maskedSample b0 b1).toNat
    m ≤ 65532 ∧ m % 4 = 0
      ∧ (decodeSample .t b0 b1).toInt = 17572 * (m : Int) - 307036160
      ∧ (decodeSample .h b0 b1).toInt = 12500 * (m : Int) - 39321600
      ∧ -307036160 ≤ (decodeSample .t b0 b1).toInt ∧ (decodeSample .t b0 b1).toInt ≤ 844492144
      ∧ -39321600 ≤ (decodeSample .h b0 b1).toInt ∧ (decodeSample .h b0 b1).toInt ≤ 779828400
      ∧ (70288 : Int) ∣ (decodeSample .t b0 b1).toInt + 307036160
      ∧ (50000 : Int) ∣ (decodeSample .h b0 b1).toInt + 39321600
      ∧ 17572 * m < 2 ^ 31 ∧ 12500 * m < 2 ^ 31
      ∧ decodeSample .t b0 b1 ≠ 0x80000000 ∧ decodeSample .h b0 b1 ≠ 0x80000000
      ∧ (phys (decodeSample .t b0 b1).toInt ≥ -40 ↔ m ≥ 2556)
      ∧ (phys (decodeSample .t b0 b1).toInt ≤ 125 ↔ m ≤ 64092)
      ∧ (phys (decodeSample .h b0 b1).toInt ≥ 0 ↔ m ≥ 3148)
      ∧ (phys (decodeSample .h b0 b1).toInt ≤ 100 ↔ m ≤ 55572)

/-- spec/40_codec.md R102 and R103: the physical value of a decoded sample is the source's transfer function, with no
rounding, of the big-endian sample with its low two bits cleared (`raw / 4 * 4` in Nat). -/
def Obligations.DecodeIsTransferFunction : Prop :=
  ∀ b0 b1 : Byte,
    let m : Nat := (b0.toNat * 256 + b1.toNat) / 4 * 4
    phys (decodeSample .t b0 b1).toInt = -(4685 : Rat) / 100 + (17572 : Rat) / 100 * ((m : Rat) / 65536)
      ∧ phys (decodeSample .h b0 b1).toInt = -(6 : Rat) + (125 : Rat) * ((m : Rat) / 65536)

/-- spec/40_codec.md R106: two cycles that differ only in the checksum byte and the two status bits of a response end
alike, but for the response the history records. -/
def Obligations.ChecksumAndStatusBitsIgnored : Prop :=
  ∀ (s : State) (host : Option HostAccess) (tick : Bool) (rest : List CycleInput) (b0 b1 b1' b2 b2' : Byte),
    b1 >>> 2 = b1' >>> 2 →
    let run (b1 b2 : Byte) :=
      step { s with
        script := { rst := false, tick := tick, host := host, rsp := some (.rAck b0 b1 b2) } :: rest }
    (∀ t, run b1 b2 = .next t → ∃ t', run b1' b2' = .next t' ∧ { t' with history := t.history } = t)
      ∧ (∀ e, run b1 b2 = .fault e → run b1' b2' = .fault e)
      ∧ (∀ e, run b1 b2 = .refused e → run b1' b2' = .refused e)

/-! ### Reset, parameters and the inputs' contracts -/

/-- spec/10_state.md R44: every row of the table, and the register values that follow. -/
def Obligations.ResetValues : Prop :=
  let s := State.reset
  s.phase = .initRst ∧ s.pend = false ∧ s.qCur = .t ∧ s.thenH = false ∧ s.mode = false ∧ s.nacks = 0 ∧ s.dcnt = 0
    ∧ s.wmask = 0 ∧ s.wkind = .setp ∧ s.warg = 0x00 ∧ s.hold = false ∧ s.prec = 0x00
    ∧ s.t.cache = 0x80000000 ∧ s.h.cache = 0x80000000 ∧ s.t.safe = true ∧ s.h.safe = true
    ∧ s.t.cnt = 0 ∧ s.h.cnt = 0 ∧ s.t.valid = false ∧ s.h.valid = false ∧ s.t.fresh = false ∧ s.h.fresh = false
    ∧ s.t.err = .none ∧ s.h.err = .none ∧ s.cmdErr = .none ∧ s.ovr = false
    ∧ regRead s 0x04 = 0x00000007 ∧ regRead s 0x08 = 0 ∧ regRead s 0x0C = 0 ∧ regRead s 0x10 = 0x80000000
    ∧ regRead s 0x14 = 0x80000000 ∧ regRead s 0x18 = 0 ∧ regRead s 0x1C = 0

/-- spec/70_reset_and_hazards.md R220: a cycle with `rst` leaves the block's whole state at reset, whatever else its
inputs carry; the parameters, what is scripted and what has been recorded are not the block's state (the model's
choice, log entries 1 to 3). -/
def Obligations.ResetOverridesEverything : Prop :=
  ∀ s : State, paramsAdmitted s.cfg = true → (cycleInput s).rst = true →
    step s = .next { State.reset with
      cfg := s.cfg, script := s.script.tail, cycle := s.cycle + 1, history := s.history }

/-- spec/20_memory.md R61 and spec/60_exceptions.md R219 (a): a host access that is not a whole aligned word at 0x00 to
0x1C is refused (that the refusal mark is an outcome that ends the run is the model's choice, log entry 5). -/
def Obligations.AccessOutsideContractRefused : Prop :=
  ∀ (s : State) (offset : Nat) (width : AccessWidth) (w : Word),
    paramsAdmitted s.cfg = true → (cycleInput s).rst = false →
    ((cycleInput s).host = some (.read offset width) ∨ (cycleInput s).host = some (.write offset width w)) →
    (width ≠ .word ∨ offset % 4 ≠ 0 ∨ 0x20 ≤ offset) → step s = .refused .hostAccess

/-- spec/20_memory.md R68 (a), (b) and spec/60_exceptions.md R219 (a'): a response while none is outstanding, or of the
other kind, has no move (a fault of the step is the model's form of it, log entry 6). -/
def Obligations.ResponseOutsideContractHasNoMove : Prop :=
  ∀ (s : State) (r : Response),
    paramsAdmitted s.cfg = true → (cycleInput s).rst = false → hostAdmitted (cycleInput s).host = true →
    (cycleInput s).rsp = some r →
    (s.pend = false ∨ outstandingKind s.phase ≠ some (responseKind r)) → step s = .fault .noMove

/-- spec/00_scope.md R7 and R6, spec/60_exceptions.md R219 (a): a configuration that violates the first or the second
constraint, or has an invalid INIT_PRECISION, is refused. The model's choices here: every step answers `refused` where the
spec keeps a mark, and the parameters are checked before anything else, `rst` included (log entry 5); CD_W outside 1 to 32
and TICK_PERIOD = 0, outside the legal ranges of R6, are refused too (log entry 2). -/
def Obligations.BadParametersRefused : Prop :=
  ∀ s : State,
    (2 ^ s.cfg.cdW ≤ s.cfg.cooldownTicks.toNat ∨ s.cfg.pollMaxT = 0 ∨ s.cfg.pollMaxH = 0
      ∨ ¬(s.cfg.initPrecision = 0x00 ∨ s.cfg.initPrecision = 0x01 ∨ s.cfg.initPrecision = 0x80
          ∨ s.cfg.initPrecision = 0x81)
      ∨ s.cfg.cdW = 0 ∨ 32 < s.cfg.cdW ∨ s.cfg.tickPeriodUs = 0) →
    step s = .refused .badParameters

/-- spec/00_scope.md R7: the defaults meet the poll budget for any bus time of an attempt. -/
def Obligations.DefaultsMeetPollBudget : Prop :=
  ∀ attemptUs : Nat, pollBudgetMet Params.defaults .t attemptUs 85000 ∧ pollBudgetMet Params.defaults .h attemptUs 29000

/-- spec/10_state.md R43 and spec/60_exceptions.md R219: every cycle whose inputs meet the contracts has a next state; and,
by the model's choice of the free draws (log entry 1), so has every cycle for which nothing is scripted. -/
def Obligations.AdmittedInputsStep : Prop :=
  ∀ s : State, paramsAdmitted s.cfg = true →
    ((cycleInput s).rst = true
      ∨ (hostAdmitted (cycleInput s).host = true ∧ responseAdmitted s (cycleInput s).rsp = true)
      ∨ s.script = []) →
    ∃ t, step s = .next t

/-! ### A step runs the decoded instruction -/

/-- spec/10_state.md R23 and R43 with spec/43_commands.md R160, R161 and spec/20_memory.md R63: every word written to CMD. A
word that decodes to `i` runs as `exec i`; any other records ILLEGAL_COMMAND with the clears of the acceptance in IDLE, and
sets OVR while busy. Then come the arm of the phase the cycle started in and the tick. That they run one after another,
each on the state the last one left, is the model's form of R43's merge of writes that all read the start-of-cycle state
(log entry 8). -/
def Obligations.StepRunsWrittenCommand : Prop :=
  ∀ (s : State) (w : Word) (tick : Bool) (rsp : Option Response),
    Given s (some (storeCommand w)) tick rsp → responseAdmitted s rsp = true →
    let rest (s1 : State) : Result :=
      chain (fsmStep s.phase tick rsp s1) fun s2 => .next (cooldownTick tick s2)
    let s0 : State := beginCycle s
    (∀ i, decode (.command w) = .ok i → step s = chain (exec i s0) rest)
      ∧ (∀ e, decode (.command w) = .reject e → step s = rest
          (if s.phase = .idle then { acceptClears s0 with cmdErr := .illegalCommand } else { s0 with ovr := true }))

/-- A phase that issues a frame which decodes to `i`: with no transaction outstanding the step is `exec i` after the
host's access, then the tick. R110 of spec/41_measurement.md says what is issued; that a bus phase decodes its own frame
and runs it as an instruction is the model's form (log entry 7), and so is the sequence of the parts (log entry 8). -/
def Obligations.StepRunsIssuedFrame : Prop :=
  ∀ (s : State) (bytes : List Byte) (i : Instr) (host : Option HostAccess) (tick : Bool),
    Given s host tick none → s.pend = false → phaseFrame s = some bytes → decode (.frame bytes) = .ok i →
    step s = chain (exec i (busyHost host (beginCycle s))) fun s1 => .next (cooldownTick tick s1)

/-! ### The host port -/

/-- spec/20_memory.md R62: a read returns, from the start-of-cycle state, what the rule lists, and changes no state: the
cycle ends as it would without the access. -/
def Obligations.RegReadReturnsAndChangesNothing : Prop :=
  ∀ (s t : State) (offset : Nat) (width : AccessWidth) (tick : Bool) (rsp : Option Response) (rest : List CycleInput),
    let cycle (host : Option HostAccess) : State :=
      { s with script := { rst := false, tick := tick, host := host, rsp := rsp } :: rest }
    hostAdmitted (some (.read offset width)) = true → step (cycle none) = .next t →
    step (cycle (some (.read offset width))) = .next { t with
      rdata := some (
        if offset = 0x04 then
          (0#13 ++ errBits s.cmdErr ++ 0#1 ++ errBits s.h.err ++ 0#1 ++ errBits s.t.err ++ BitVec.ofBool s.ovr
            ++ BitVec.ofBool s.h.fresh ++ BitVec.ofBool s.t.fresh ++ BitVec.ofBool s.h.valid
            ++ BitVec.ofBool s.t.valid ++ BitVec.ofBool s.h.safe ++ BitVec.ofBool s.t.safe
            ++ BitVec.ofBool (decide (s.phase ≠ .idle)))
        else if offset = 0x08 then (BitVec.ofBool s.hold).zeroExtend 32
        else if offset = 0x0C then s.prec.zeroExtend 32
        else if offset = 0x10 then s.t.cache
        else if offset = 0x14 then s.h.cache
        else if offset = 0x18 then s.t.cnt
        else if offset = 0x1C then s.h.cnt
        else 0) }

/-- spec/10_state.md R24, R25, R26, R46 and spec/60_exceptions.md R200: the fields of STATUS, CTRL and PREC bit by bit,
the reserved bits reading 0 in every state. -/
def Obligations.StatusFieldLayout : Prop :=
  ∀ s : State,
    (regRead s 0x04).getLsbD 0 = decide (s.phase ≠ .idle) ∧ (regRead s 0x04).getLsbD 1 = s.t.safe
      ∧ (regRead s 0x04).getLsbD 2 = s.h.safe ∧ (regRead s 0x04).getLsbD 3 = s.t.valid
      ∧ (regRead s 0x04).getLsbD 4 = s.h.valid ∧ (regRead s 0x04).getLsbD 5 = s.t.fresh
      ∧ (regRead s 0x04).getLsbD 6 = s.h.fresh ∧ (regRead s 0x04).getLsbD 7 = s.ovr
      ∧ (regRead s 0x04).extractLsb 10 8 = errBits s.t.err ∧ (regRead s 0x04).getLsbD 11 = false
      ∧ (regRead s 0x04).extractLsb 14 12 = errBits s.h.err ∧ (regRead s 0x04).getLsbD 15 = false
      ∧ (regRead s 0x04).extractLsb 18 16 = errBits s.cmdErr ∧ (regRead s 0x04).extractLsb 31 19 = 0
      ∧ (regRead s 0x08).getLsbD 0 = s.hold ∧ (regRead s 0x08).extractLsb 31 1 = 0
      ∧ (regRead s 0x0C).extractLsb 7 0 = s.prec ∧ (regRead s 0x0C).extractLsb 31 8 = 0
      ∧ errBits .none = 0 ∧ errBits .busError = 1 ∧ errBits .timeout = 2 ∧ errBits .invalidPrecision = 3
      ∧ errBits .illegalCommand = 4

/-- spec/20_memory.md R63: a write to STATUS, CTRL or a read-only register, and one to CMD while busy, in every state. -/
def Obligations.RegWriteEffects : Prop :=
  ∀ (s : State) (offset : Nat) (w : Word),
    hostAdmitted (some (.write offset .word w)) = true →
    hostStep (some (.write offset .word w)) s =
      if offset = 0x00 then
        (if s.phase = .idle then writeCommand w s else .next { s with ovr := true })
      else if offset = 0x04 then .next { s with ovr := if w.getLsbD 7 = true then false else s.ovr }
      else if offset = 0x08 then .next { s with hold := w.getLsbD 0 }
      else .next s

/-- spec/43_commands.md R161: a word in IDLE that is not `Legal` records ILLEGAL_COMMAND, with the clears and the latch of
R160; it changes nothing else, so it issues nothing, starts nothing and stays in IDLE. -/
def Obligations.IllegalCommandRecorded : Prop :=
  ∀ (s : State) (w : Word), s.phase = .idle → legal w = false →
    hostStep (some (storeCommand w)) s = .next { s with
      t := { s.t with fresh := false, err := .none }
      h := { s.h with fresh := false, err := .none }
      cmdErr := .illegalCommand
      mode := s.hold }

/-- spec/60_exceptions.md R207: in any phase but IDLE every command is dropped and sets OVR; nothing else changes, so
every register but STATUS reads as before. -/
def Obligations.BusyCommandsDropped : Prop :=
  ∀ (s : State) (p : Byte) (m : BitVec 2), s.phase ≠ .idle →
    exec .getT s = .next { s with ovr := true } ∧ exec .getH s = .next { s with ovr := true }
      ∧ exec .getData s = .next { s with ovr := true } ∧ exec (.setPrecision p) s = .next { s with ovr := true }
      ∧ exec .softReset s = .next { s with ovr := true } ∧ exec (.waitSafe m) s = .next { s with ovr := true }

/-! ### Commands in IDLE -/

/-- spec/43_commands.md R160 and R162 to R164: what acceptance clears and latches (`acceptClears`, which the statements of
the other commands use too), and GET_T, GET_H and GET_DATA in IDLE, for every state of the timers. GET_T and GET_H do not
consult the other quantity's timer; GET_DATA starts the temperature measurement, with humidity to follow, if both are
SAFE, else it does nothing but the clears. -/
def Obligations.MeasurementCommandsInIdle : Prop :=
  ∀ s : State, s.phase = .idle →
    acceptClears s = { s with
        t := { s.t with fresh := false, err := .none }
        h := { s.h with fresh := false, err := .none }
        cmdErr := .none
        mode := s.hold }
      ∧ exec .getT s = .next (if s.t.safe = true then
        { acceptClears s with qCur := .t, thenH := false, phase := .trig } else acceptClears s)
      ∧ exec .getH s = .next (if s.h.safe = true then
        { acceptClears s with qCur := .h, thenH := false, phase := .trig } else acceptClears s)
      ∧ exec .getData s = .next (if s.t.safe = true ∧ s.h.safe = true then
        { acceptClears s with qCur := .t, thenH := true, phase := .trig } else acceptClears s)

/-- spec/43_commands.md R166, R168 and R169: SET_PRECISION in IDLE, for each of the 256 codes, SOFT_RESET and WAIT_SAFE. -/
def Obligations.ConfigurationCommandsInIdle : Prop :=
  ∀ (s : State) (p : Byte) (m : BitVec 2), s.phase = .idle →
    exec (.setPrecision p) s = .next (if p = 0x00 ∨ p = 0x01 ∨ p = 0x80 ∨ p = 0x81 then
        { acceptClears s with wkind := .setp, warg := p, phase := .wrcmd }
      else { acceptClears s with cmdErr := .invalidPrecision })
      ∧ exec .softReset s = .next { acceptClears s with wkind := .srst, phase := .wrcmd }
      ∧ exec (.waitSafe m) s = .next { acceptClears s with wmask := m, phase := .waitsafe }

/-! ### Sensor frames -/

/-- spec/41_measurement.md R110 with spec/30_encoding.md R84: each of the six frames, run with no transaction outstanding,
is started on the port at DEV_ADDR byte for byte, and changes nothing else. That a frame is an instruction with this
meaning is the model's form (log entry 7); so is that a USERREG frame has it for each of the 256 codes, of which the block
itself issues four (log entry 13). -/
def Obligations.FramesAreIssued : Prop :=
  ∀ (s : State) (code : Byte), s.pend = false →
    let issued (bytes : List Byte) : State := { s with
      issue := some (.busWrite s.cfg.devAddr bytes)
      pend := true
      history := .issued (.busWrite s.cfg.devAddr bytes) :: s.history }
    exec .sensorTrigTHold s = .next (issued [0xE3]) ∧ exec .sensorTrigHHold s = .next (issued [0xE5])
      ∧ exec .sensorTrigTNohold s = .next (issued [0xF3]) ∧ exec .sensorTrigHNohold s = .next (issued [0xF5])
      ∧ exec (.sensorWriteUserreg code) s = .next (issued [0xE6, code])
      ∧ exec .sensorSoftReset s = .next (issued [0xFE])

/-- spec/30_encoding.md R89: the block never issues 0xE7; no phase puts the byte on the port. That its instruction answers
`refused neverIssued` in every state is the model's form of a byte that is never issued (log entry 7). -/
def Obligations.ReadUserregNeverIssued : Prop :=
  ∀ s : State, exec .sensorReadUserreg s = .refused .neverIssued
    ∧ ∀ bytes, phaseFrame s = some bytes → bytes.head? ≠ some 0xE7

/-- spec/20_memory.md R66, R67 and spec/30_encoding.md R82, R89: from every good state, a transaction that a step starts is
one of the three write frames, with a valid code in USERREG, or the 3-byte read, at DEV_ADDR; and it is started only
when none is outstanding (spec/10_state.md R42). -/
def Obligations.OnlyListedTransactionsIssued : Prop :=
  ∀ (s t : State) (x : Txn), s.Inv → step s = .next t → t.issue = some x →
    txnAllowed s.cfg x = true ∧ s.pend = false ∧ t.pend = true ∧ t.history = .issued x :: s.history

/-- spec/10_state.md R34, R42 and spec/20_memory.md R68, R78: issue and response alternate. A step without reset records
nothing and leaves `pend`, or starts a transaction while none was outstanding and sets `pend`, or consumes a response while
one was and clears it. A step with `rst` leaves none outstanding (spec/70_reset_and_hazards.md R220, R224); that it keeps
the history and shows no issue is the model's choice (log entry 3). -/
def Obligations.HistoryGrowsByOneEvent : Prop :=
  ∀ s t : State, step s = .next t →
    ((cycleInput s).rst = true → t.history = s.history ∧ t.issue = none ∧ t.pend = false)
      ∧ ((cycleInput s).rst = false →
        (t.history = s.history ∧ t.issue = none ∧ t.pend = s.pend)
          ∨ (∃ x, t.history = .issued x :: s.history ∧ t.issue = some x ∧ s.pend = false ∧ t.pend = true)
          ∨ (∃ r, t.history = .consumed r :: s.history ∧ t.issue = none ∧ s.pend = true ∧ t.pend = false
              ∧ (cycleInput s).rsp = some r ∧ outstandingKind s.phase = some (responseKind r)))

/-! ### The readout state machine -/

/-- spec/41_measurement.md R110: a bus phase with no transaction outstanding starts its own and stays, whatever the host
does: the write frame of the phase, or in READ the 3-byte read. -/
def Obligations.BusPhaseIssues : Prop :=
  ∀ (s : State) (host : Option HostAccess) (tick : Bool),
    Given s host tick none → s.pend = false →
    let started (x : Txn) : State := cooldownTick tick { busyHost host (beginCycle s) with
      issue := some x, pend := true, history := .issued x :: s.history }
    (s.phase = .initRst → step s = .next (started (.busWrite s.cfg.devAddr [0xFE])))
      ∧ (s.phase = .initPrec → step s = .next (started (.busWrite s.cfg.devAddr [0xE6, s.cfg.initPrecision])))
      ∧ (s.phase = .trig → step s = .next (started (.busWrite s.cfg.devAddr [triggerByte s.qCur s.mode])))
      ∧ (s.phase = .wrcmd → s.wkind = .setp → step s = .next (started (.busWrite s.cfg.devAddr [0xE6, s.warg])))
      ∧ (s.phase = .wrcmd → s.wkind = .srst → step s = .next (started (.busWrite s.cfg.devAddr [0xFE])))
      ∧ (s.phase = .read → step s = .next (started (.busRead s.cfg.devAddr 3)))

/-- spec/41_measurement.md R110: a bus phase whose transaction is not answered yet holds. -/
def Obligations.BusPhaseHolds : Prop :=
  ∀ (s : State) (host : Option HostAccess) (tick : Bool),
    Given s host tick none → s.pend = true → (outstandingKind s.phase).isSome = true →
    step s = .next (cooldownTick tick (busyHost host (beginCycle s)))

/-- spec/41_measurement.md R113: the answer to the trigger. -/
def Obligations.TriggerAnswered : Prop :=
  ∀ (s : State) (host : Option HostAccess) (tick : Bool) (r : Response),
    Given s host tick (some r) → s.phase = .trig → s.pend = true →
    let s0 : State := { busyHost host (beginCycle s) with pend := false, history := .consumed r :: s.history }
    let n := s.cfg.holdDelay s.qCur
    (r = .wAck → s.mode = true → n ≠ 0 →
        step s = .next (cooldownTick tick { s0 with nacks := 0, dcnt := n, phase := .delay }))
      ∧ (r = .wAck → s.mode = true → n = 0 → step s = .next (cooldownTick tick { s0 with nacks := 0, phase := .read }))
      ∧ (r = .wAck → s.mode = false → step s = .next (cooldownTick tick { s0 with nacks := 0, phase := .read }))
      ∧ (r = .wNack → step s = .next (cooldownTick tick (finishFail s.qCur .busError s0)))

/-- spec/41_measurement.md R115: an acknowledged read ends the measurement with the decoded sample. -/
def Obligations.ReadAcknowledged : Prop :=
  ∀ (s : State) (host : Option HostAccess) (tick : Bool) (b0 b1 b2 : Byte),
    Given s host tick (some (.rAck b0 b1 b2)) → s.phase = .read → s.pend = true →
    step s = .next (cooldownTick tick (finishOk s.qCur (decodeSample s.qCur b0 b1)
      { busyHost host (beginCycle s) with pend := false, history := .consumed (.rAck b0 b1 b2) :: s.history }))

/-- spec/41_measurement.md R116: a read that is not acknowledged: BUS_ERROR in hold mode; in no-hold mode TIMEOUT at the
`POLL_MAX_q`-th attempt, and a retry before it. The comparison is on numbers, as R8 says. -/
def Obligations.ReadNotAcknowledged : Prop :=
  ∀ (s : State) (host : Option HostAccess) (tick : Bool),
    Given s host tick (some .rNack) → s.phase = .read → s.pend = true →
    let s0 : State := { busyHost host (beginCycle s) with pend := false, history := .consumed .rNack :: s.history }
    let n := s.nacks.toNat + 1
    let bound := (s.cfg.pollMax s.qCur).toNat
    (s.mode = true → step s = .next (cooldownTick tick (finishFail s.qCur .busError s0)))
      ∧ (s.mode = false → bound ≤ n → step s = .next (cooldownTick tick (finishFail s.qCur .timeout s0)))
      ∧ (s.mode = false → n < bound → s.cfg.pollGap ≠ 0 → step s = .next (cooldownTick tick
          { s0 with nacks := BitVec.ofNat 8 n, dcnt := s.cfg.pollGap, phase := .gap }))
      ∧ (s.mode = false → n < bound → s.cfg.pollGap = 0 → step s = .next (cooldownTick tick
          { s0 with nacks := BitVec.ofNat 8 n, phase := .read }))

/-- spec/41_measurement.md R118 with spec/42_cooldown.md R140: what `Finish` writes, for each quantity and result; the other
quantity's state is untouched (R145), and a failure arms nothing. -/
def Obligations.FinishWrites : Prop :=
  ∀ (s : State) (n : Word) (e : ErrCode),
    let okChannel (c : Channel) : Channel := { c with
      cache := n, valid := true, fresh := true, cnt := s.cfg.cooldownTicks
      safe := decide (s.cfg.cooldownTicks = 0), armedNow := true }
    let next (s' : State) : State := { s' with
      qCur := if s.thenH = true then .h else s.qCur
      thenH := false
      phase := if s.thenH = true then .trig else .idle }
    finishOk .t n s = next { s with t := okChannel s.t }
      ∧ finishFail .t e s = next { s with t := { s.t with err := e } }
      ∧ finishOk .h n s = { s with h := okChannel s.h, phase := .idle }
      ∧ finishFail .h e s = { s with h := { s.h with err := e }, phase := .idle }

/-- spec/43_commands.md R167: the answer to the write of SET_PRECISION or SOFT_RESET. -/
def Obligations.ConfigurationWriteAnswered : Prop :=
  ∀ (s : State) (host : Option HostAccess) (tick : Bool) (r : Response),
    Given s host tick (some r) → s.phase = .wrcmd → s.pend = true →
    let s0 : State := { busyHost host (beginCycle s) with pend := false, history := .consumed r :: s.history }
    (r = .wAck → step s = .next (cooldownTick tick
        { s0 with prec := if s.wkind = .setp then s.warg else s.prec, phase := .idle }))
      ∧ (r = .wNack → step s = .next (cooldownTick tick { s0 with cmdErr := .busError, phase := .idle }))

/-- spec/70_reset_and_hazards.md R222 and R223: the answers to the two writes of the initialisation, which goes on whatever
they are. -/
def Obligations.InitialisationAnswered : Prop :=
  ∀ (s : State) (host : Option HostAccess) (tick : Bool) (r : Response),
    Given s host tick (some r) → s.pend = true → (r = .wAck ∨ r = .wNack) →
    let err := if r = .wNack then ErrCode.busError else s.cmdErr
    let s0 : State := { busyHost host (beginCycle s) with
      pend := false, history := .consumed r :: s.history, cmdErr := err }
    (s.phase = .initRst → step s = .next (cooldownTick tick
        (if s.cfg.resetSettle = 0 then { s0 with phase := .initPrec }
          else { s0 with dcnt := s.cfg.resetSettle, phase := .initSettle })))
      ∧ (s.phase = .initPrec → step s = .next (cooldownTick tick
          { s0 with prec := if r = .wAck then s.cfg.initPrecision else s.prec, phase := .idle }))

/-- spec/43_commands.md R169: WAITSAFE ends in the first cycle that starts with every selected timer SAFE, and stays
otherwise. -/
def Obligations.WaitSafeEndsWhenSelectedSafe : Prop :=
  ∀ (s : State) (host : Option HostAccess) (tick : Bool),
    Given s host tick none → s.pend = false → s.phase = .waitsafe →
    step s = .next (cooldownTick tick { busyHost host (beginCycle s) with
      phase := if (s.wmask.getLsbD 0 = true → s.t.safe = true) ∧ (s.wmask.getLsbD 1 = true → s.h.safe = true)
        then .idle else .waitsafe })

/-- spec/41_measurement.md R112, in one cycle and over a whole wait. One cycle of INIT_SETTLE, DELAY or GAP is the host's
access with only the phase or `dcnt` written, and only on a tick, then the cooldown tick (in this sequence by log entry 8).
From a delay phase with `dcnt = d`, after any run of cycles without reset that holds at most `d` ticks the phase stands and
`dcnt` is `d` less the ticks; the `d + 1`-th tick leaves it. -/
def Obligations.DelayLastsItsTicks : Prop :=
  (∀ (s : State) (host : Option HostAccess) (tick : Bool) (next : Phase),
      Given s host tick none → delayExit s.phase = some next →
      let u : State := busyHost host (beginCycle s)
      step s = .next (cooldownTick tick (
        if tick = true then (if s.dcnt = 0 then { u with phase := next } else { u with dcnt := s.dcnt - 1 }) else u)))
    ∧ ∀ (s t : State) (l rest : List CycleInput) (next : Phase),
      delayExit s.phase = some next → s.script = l ++ rest → noReset l → core.run l.length s = .next t →
      (ticks l ≤ s.dcnt.toNat → t.phase = s.phase ∧ t.dcnt.toNat = s.dcnt.toNat - ticks l)
        ∧ (∀ l' inp, l = l' ++ [inp] → ticks l' = s.dcnt.toNat → inp.tick = true → t.phase = next)

/-- spec/41_measurement.md R120: every transaction a measurement starts lowers what it may still issue, and nothing raises
it, so a measurement issues at most `1 + POLL_MAX_q` and cannot go on forever. -/
def Obligations.MeasurementBudgetFalls : Prop :=
  ∀ s t : State, s.Inv → s.phase.measuring = true → (cycleInput s).rst = false → step s = .next t →
    t.phase.measuring = true → txnBudget t + (if t.issue.isSome = true then 1 else 0) ≤ txnBudget s

/-- spec/41_measurement.md R121: nothing but `rst` aborts a measurement. While one runs, a cycle without reset either goes
on measuring with the same latched mode, or ends it by consuming a response; and a host access changes only OVR, HOLD
and the data returned. -/
def Obligations.NoCancellation : Prop :=
  ∀ (s t : State) (host : Option HostAccess) (tick : Bool) (rsp : Option Response) (rest : List CycleInput),
    let cycle (host : Option HostAccess) : State :=
      { s with script := { rst := false, tick := tick, host := host, rsp := rsp } :: rest }
    s.phase.measuring = true → step (cycle host) = .next t →
    t.mode = s.mode
      ∧ (t.phase.measuring = true ∨ (t.phase = .idle ∧ s.pend = true ∧ ∃ r, rsp = some r
          ∧ t.history = .consumed r :: s.history))
      ∧ ∃ t', step (cycle none) = .next t'
          ∧ t = { t' with ovr := t.ovr, hold := t.hold, rdata := t.rdata }

/-! ### Cooldown timers -/

/-- spec/42_cooldown.md R141: one tick on one timer, and no tick. -/
def Obligations.CooldownTickRule : Prop :=
  ∀ s : State,
    cooldownTick false s = s
      ∧ cooldownTick true s = { s with t := tickChannel s.t, h := tickChannel s.h }
      ∧ ∀ c : Channel,
          ((c.armedNow = true ∨ c.safe = true) → tickChannel c = c)
          ∧ (c.armedNow = false → c.safe = false → c.cnt = 0 → tickChannel c = { c with safe := true })
          ∧ (c.armedNow = false → c.safe = false → c.cnt ≠ 0 →
              tickChannel c = { c with cnt := BitVec.ofNat 32 (c.cnt.toNat - 1) })

/-- spec/42_cooldown.md R142: a sample stored in a cycle that ticks loads its own timer with the whole window, and the tick
still counts for the other quantity's. -/
def Obligations.ArmBeatsTick : Prop :=
  ∀ (s : State) (host : Option HostAccess) (b0 b1 b2 : Byte),
    Given s host true (some (.rAck b0 b1 b2)) → s.phase = .read → s.pend = true →
    ∃ t, step s = .next t
      ∧ (t.chan s.qCur).cnt = s.cfg.cooldownTicks
      ∧ (t.chan s.qCur).safe = decide (s.cfg.cooldownTicks = 0)
      ∧ ∀ q, q ≠ s.qCur → t.chan q =
          (let c : Channel := { s.chan q with armedNow := false }
           if c.safe = true then c
           else if c.cnt = 0 then { c with safe := true }
           else { c with cnt := c.cnt - 1 })

/-- spec/42_cooldown.md R144: a timer that is COOLING with `cnt = n`, over any run of cycles without reset: up to `n` ticks
it stays COOLING and counts each of them, and the `n + 1`-th tick makes it SAFE. -/
def Obligations.CooldownWindowLength : Prop :=
  ∀ (s t : State) (q : Quantity) (l rest : List CycleInput),
    s.Inv → (s.chan q).safe = false → s.script = l ++ rest → noReset l → core.run l.length s = .next t →
    (ticks l ≤ (s.chan q).cnt.toNat →
        (t.chan q).safe = false ∧ (t.chan q).cnt.toNat = (s.chan q).cnt.toNat - ticks l)
      ∧ (∀ l' inp, l = l' ++ [inp] → ticks l' = (s.chan q).cnt.toNat → inp.tick = true → (t.chan q).safe = true)

/-- spec/42_cooldown.md R140 and spec/70_reset_and_hazards.md R234: a SAFE timer leaves SAFE only in a cycle without reset
that stores a sample of its own quantity. -/
def Obligations.SafeEndsOnlyBySample : Prop :=
  ∀ (s t : State) (q : Quantity), step s = .next t → (s.chan q).safe = true → (t.chan q).safe = false →
    s.phase = .read ∧ s.pend = true ∧ s.qCur = q ∧ (cycleInput s).rst = false
      ∧ ∃ b0 b1 b2, (cycleInput s).rsp = some (.rAck b0 b1 b2)

/-- spec/70_reset_and_hazards.md R234 with spec/41_measurement.md R118 and spec/43_commands.md R164: when WAIT_SAFE of both
quantities ends without reset, both timers are SAFE; a cycle without reset that starts in IDLE keeps a SAFE timer SAFE;
GET_DATA in IDLE with both SAFE starts the temperature measurement with humidity to follow; and such a measurement goes on,
with the same latched mode, until it ends, whatever its result, in the humidity trigger. -/
def Obligations.WaitSafeThenGetData : Prop :=
  (∀ s t : State, s.phase = .waitsafe → s.wmask = 0b11 → (cycleInput s).rst = false → step s = .next t →
      t.phase = .idle → t.t.safe = true ∧ t.h.safe = true)
    ∧ (∀ (s t : State) (q : Quantity), s.phase = .idle → (cycleInput s).rst = false → step s = .next t →
        (s.chan q).safe = true → (t.chan q).safe = true)
    ∧ (∀ s : State, s.phase = .idle → s.t.safe = true → s.h.safe = true →
        ∃ t, exec .getData s = .next t ∧ t.phase = .trig ∧ t.qCur = .t ∧ t.thenH = true)
    ∧ (∀ s t : State, s.phase.measuring = true → s.qCur = .t → s.thenH = true → (cycleInput s).rst = false →
        step s = .next t →
        t.mode = s.mode
          ∧ ((t.phase.measuring = true ∧ t.qCur = .t ∧ t.thenH = true)
            ∨ (t.phase = .trig ∧ t.pend = false ∧ t.qCur = .h ∧ t.thenH = false
                ∧ ∃ r, t.history = .consumed r :: s.history)))

/-- spec/60_exceptions.md R209: a command accepted in the cycle in which the timer expires sees it COOLING: GET_T does not
measure, and the same tick makes the timer SAFE. -/
def Obligations.GetTSeesStartOfCycleTimer : Prop :=
  ∀ s : State, Given s (some (storeCommand 0x00000001)) true none → s.phase = .idle → s.pend = false →
    s.t.safe = false → s.t.cnt = 0 →
    ∃ t, step s = .next t ∧ t.phase = .idle ∧ t.issue = none ∧ t.t.safe = true ∧ t.t.fresh = false
      ∧ t.t.cache = s.t.cache

/-! ### Whole-machine rules -/

/-- spec/10_state.md R27, R28, R31 and spec/43_commands.md R170: a cached value and its VALID change only by reset or by an
acknowledged read of that quantity, which stores its decode. -/
def Obligations.CacheChangesOnlyBySample : Prop :=
  ∀ (s t : State) (q : Quantity), step s = .next t → (cycleInput s).rst = false →
    ((t.chan q).cache = (s.chan q).cache ∧ (t.chan q).valid = (s.chan q).valid)
      ∨ (s.phase = .read ∧ s.pend = true ∧ s.qCur = q
          ∧ ∃ b0 b1 b2, (cycleInput s).rsp = some (.rAck b0 b1 b2)
              ∧ (t.chan q).cache = decodeSample q b0 b1 ∧ (t.chan q).valid = true)

/-- spec/10_state.md R26: PREC changes only by reset, by the acknowledged initialisation write or by the acknowledged
SET_PRECISION write. -/
def Obligations.PrecChangesOnlyByAcknowledgedWrite : Prop :=
  ∀ s t : State, step s = .next t → (cycleInput s).rst = false →
    t.prec = s.prec
      ∨ (s.pend = true ∧ (cycleInput s).rsp = some .wAck
          ∧ ((s.phase = .initPrec ∧ t.prec = s.cfg.initPrecision)
            ∨ (s.phase = .wrcmd ∧ s.wkind = .setp ∧ t.prec = s.warg)))

/-- spec/10_state.md R25, R33, R40, spec/20_memory.md R63 and spec/70_reset_and_hazards.md R220: OVR is set exactly by a
write to CMD while busy and cleared exactly by a write to STATUS with bit 7 or by reset; HOLD is written exactly by a write
to CTRL or by reset; nothing else changes either, and both are 0 at reset. -/
def Obligations.OvrAndHoldWrittenOnlyByHost : Prop :=
  State.reset.ovr = false ∧ State.reset.hold = false
    ∧ ∀ s t : State, step s = .next t →
      ((cycleInput s).rst = true → t.ovr = false ∧ t.hold = false)
        ∧ ((cycleInput s).rst = false →
          (∀ w, (cycleInput s).host = some (.write 0x00 .word w) →
              t.ovr = (if s.phase = .idle then s.ovr else true) ∧ t.hold = s.hold)
            ∧ (∀ w, (cycleInput s).host = some (.write 0x04 .word w) →
                t.ovr = (if w.getLsbD 7 = true then false else s.ovr) ∧ t.hold = s.hold)
            ∧ (∀ w, (cycleInput s).host = some (.write 0x08 .word w) → t.ovr = s.ovr ∧ t.hold = w.getLsbD 0)
            ∧ ((∀ a w, (cycleInput s).host = some (.write a .word w) → a ≠ 0x00 ∧ a ≠ 0x04 ∧ a ≠ 0x08) →
                t.ovr = s.ovr ∧ t.hold = s.hold))

/-- spec/60_exceptions.md R201 and spec/10_state.md R32: in a cycle without reset an error field changes only where a
command word is written in IDLE, or where a response that is not an acknowledgement is consumed in the phase that
records there. -/
def Obligations.ErrorsChangeOnlyWhereRecorded : Prop :=
  ∀ s t : State, step s = .next t → (cycleInput s).rst = false →
    (s.phase = .idle ∧ ∃ w, (cycleInput s).host = some (.write 0x00 .word w))
      ∨ (t.t.err = s.t.err ∧ t.h.err = s.h.err ∧ t.cmdErr = s.cmdErr)
      ∨ (s.pend = true ∧ s.phase.measuring = true ∧ t.cmdErr = s.cmdErr
          ∧ ((cycleInput s).rsp = some .wNack ∨ (cycleInput s).rsp = some .rNack)
          ∧ (s.qCur = .t → t.h.err = s.h.err) ∧ (s.qCur = .h → t.t.err = s.t.err))
      ∨ (s.pend = true ∧ (s.phase = .initRst ∨ s.phase = .initPrec ∨ s.phase = .wrcmd)
          ∧ (cycleInput s).rsp = some .wNack ∧ t.cmdErr = .busError ∧ t.t.err = s.t.err ∧ t.h.err = s.h.err)

/-- The frame of the command constructors (spec/43_commands.md R160, R170): whatever the state, a command leaves both cached
values, VALID and timers, PREC, CTRL, the port, the wait counter, the retry counter and the parameters alone, so TEMP,
HUMID, PREC, CTRL, T_CD and H_CD read as before; in IDLE it leaves OVR alone too. -/
def Obligations.CommandFrame : Prop :=
  ∀ (i : Instr) (s t : State) (w : Word), encode i = .command w → exec i s = .next t →
    t.t.cache = s.t.cache ∧ t.h.cache = s.h.cache ∧ t.t.valid = s.t.valid ∧ t.h.valid = s.h.valid
      ∧ t.t.safe = s.t.safe ∧ t.h.safe = s.h.safe ∧ t.t.cnt = s.t.cnt ∧ t.h.cnt = s.h.cnt
      ∧ t.t.armedNow = s.t.armedNow ∧ t.h.armedNow = s.h.armedNow
      ∧ t.prec = s.prec ∧ t.hold = s.hold ∧ t.pend = s.pend ∧ t.nacks = s.nacks ∧ t.dcnt = s.dcnt
      ∧ t.rdata = s.rdata ∧ t.issue = s.issue ∧ t.history = s.history
      ∧ t.cfg = s.cfg ∧ t.script = s.script ∧ t.cycle = s.cycle
      ∧ (∀ offset, offset ≠ 0x04 → regRead t offset = regRead s offset)
      ∧ (s.phase = .idle → t.ovr = s.ovr)

/-- The frame of the sensor frames: a frame changes at most the port (`pend`, `issue`, the history), so every register of
the host, STATUS included, reads as before. R110 of spec/41_measurement.md says what issuing writes, and R42 of
spec/10_state.md that none is issued while one is outstanding; that a frame run as an instruction then changes nothing is
the model's form (log entry 7). -/
def Obligations.SensorFrameFrame : Prop :=
  ∀ (i : Instr) (s t : State) (bytes : List Byte), encode i = .frame bytes → exec i s = .next t →
    t = { s with pend := t.pend, issue := t.issue, history := t.history }
      ∧ (s.pend = true → t = s) ∧ ∀ offset, regRead t offset = regRead s offset

/-- spec/10_state.md R43, R46, spec/20_memory.md R62, R63 and spec/60_exceptions.md R218: an IDLE cycle without reset and
without a write to CMD is the host's access, then the cooldown tick (in this sequence by log entry 8), whatever the timers.
So with both timers SAFE and no access nothing of the block changes; the outputs are quiet, and the model's script and
counter go on (log entries 1 and 3). -/
def Obligations.IdleIsQuiescent : Prop :=
  (∀ (s : State) (host : Option HostAccess) (tick : Bool),
      Given s host tick none → s.phase = .idle → (∀ width w, host ≠ some (.write 0x00 width w)) →
      step s = .next (cooldownTick tick (busyHost host (beginCycle s))))
    ∧ ∀ (s : State) (tick : Bool), Given s none tick none → s.phase = .idle → s.t.safe = true → s.h.safe = true →
      step s = .next { s with
        script := s.script.tail, cycle := s.cycle + 1, rdata := none, issue := none
        t := { s.t with armedNow := false }, h := { s.h with armedNow := false } }

/-- spec/43_commands.md R162 with spec/41_measurement.md R119 and spec/70 R236 (GET_T, no hold, first read acknowledged):
five cycles from the acceptance, whatever the ticks and the bytes, the block is idle again with the decoded temperature
fresh and its timer armed, after exactly the write of 0xF3 and one read. -/
def Obligations.GetTNoHoldEndToEnd : Prop :=
  ∀ (s : State) (k0 k1 k2 k3 k4 : Bool) (b0 b1 b2 : Byte) (rest : List CycleInput),
    s.Inv → s.phase = .idle → s.t.safe = true → s.hold = false →
    s.script = [{ rst := false, tick := k0, host := some (storeCommand 0x00000001), rsp := none },
        { rst := false, tick := k1, host := none, rsp := none },
        { rst := false, tick := k2, host := none, rsp := some .wAck },
        { rst := false, tick := k3, host := none, rsp := none },
        { rst := false, tick := k4, host := none, rsp := some (.rAck b0 b1 b2) }] ++ rest →
    ∃ t, core.run 5 s = .next t ∧ t.phase = .idle ∧ t.pend = false
      ∧ t.t.cache = decodeSample .t b0 b1 ∧ t.t.valid = true ∧ t.t.fresh = true ∧ t.t.err = .none
      ∧ t.t.cnt = s.cfg.cooldownTicks ∧ t.t.safe = decide (s.cfg.cooldownTicks = 0)
      ∧ t.h.cache = s.h.cache ∧ t.h.valid = s.h.valid ∧ t.h.fresh = false ∧ t.h.err = .none
      ∧ t.cmdErr = .none ∧ t.prec = s.prec ∧ t.ovr = s.ovr
      ∧ t.history = [.consumed (.rAck b0 b1 b2), .issued (.busRead s.cfg.devAddr 3), .consumed .wAck,
          .issued (.busWrite s.cfg.devAddr [0xF3])] ++ s.history

/-- spec/43_commands.md R164 and R165 (no hold, every answer an acknowledgement): GET_DATA performs exactly two
measurements, temperature then humidity, in nine cycles, whatever the ticks and the bytes. Both timers are armed; by the end
the temperature's has counted the `n` ticks after its own arming (spec/42_cooldown.md R141, R144). -/
def Obligations.GetDataNoHoldEndToEnd : Prop :=
  ∀ (s : State) (k0 k1 k2 k3 k4 k5 k6 k7 k8 : Bool) (b0 b1 b2 c0 c1 c2 : Byte) (rest : List CycleInput),
    s.Inv → s.phase = .idle → s.t.safe = true → s.h.safe = true → s.hold = false →
    s.script = [{ rst := false, tick := k0, host := some (storeCommand 0x00000003), rsp := none },
        { rst := false, tick := k1, host := none, rsp := none },
        { rst := false, tick := k2, host := none, rsp := some .wAck },
        { rst := false, tick := k3, host := none, rsp := none },
        { rst := false, tick := k4, host := none, rsp := some (.rAck b0 b1 b2) },
        { rst := false, tick := k5, host := none, rsp := none },
        { rst := false, tick := k6, host := none, rsp := some .wAck },
        { rst := false, tick := k7, host := none, rsp := none },
        { rst := false, tick := k8, host := none, rsp := some (.rAck c0 c1 c2) }] ++ rest →
    let window := s.cfg.cooldownTicks.toNat
    let n := [k5, k6, k7, k8].count true
    ∃ t, core.run 9 s = .next t ∧ t.phase = .idle ∧ t.pend = false
      ∧ t.t.cache = decodeSample .t b0 b1 ∧ t.h.cache = decodeSample .h c0 c1
      ∧ t.t.valid = true ∧ t.h.valid = true ∧ t.t.fresh = true ∧ t.h.fresh = true
      ∧ t.t.err = .none ∧ t.h.err = .none ∧ t.cmdErr = .none ∧ t.prec = s.prec ∧ t.ovr = s.ovr
      ∧ t.t.cnt.toNat = window - n ∧ t.t.safe = decide (window = 0 ∨ window < n)
      ∧ t.h.cnt.toNat = window ∧ t.h.safe = decide (window = 0)
      ∧ t.history = [.consumed (.rAck c0 c1 c2), .issued (.busRead s.cfg.devAddr 3), .consumed .wAck,
          .issued (.busWrite s.cfg.devAddr [0xF5]), .consumed (.rAck b0 b1 b2), .issued (.busRead s.cfg.devAddr 3),
          .consumed .wAck, .issued (.busWrite s.cfg.devAddr [0xF3])] ++ s.history

/-! ### Invariants -/

/-- The invariant holds at reset, for any admitted parameters and any script (the model's own fields, log entries 1 and
2). -/
def Obligations.InvariantAtReset : Prop :=
  ∀ (cfg : Params) (script : List CycleInput), paramsAdmitted cfg = true →
    { State.reset with cfg := cfg, script := script }.Inv

/-- Every step keeps the invariant, from every state that has it, whatever the inputs. -/
def Obligations.InvariantKeptByStep : Prop :=
  ∀ s t : State, s.Inv → step s = .next t → t.Inv

/-- spec/10_state.md R45: the five clauses hold in every state reached from reset, for any admitted parameters and any
inputs, scripted or free. -/
def Obligations.ReachableStatesHaveFacts : Prop :=
  ∀ (cfg : Params) (script : List CycleInput) (n : Nat) (t : State), paramsAdmitted cfg = true →
    core.run n { State.reset with cfg := cfg, script := script } = .next t → t.Facts

/-- The model's own fields (log entries 1 and 2): no step changes the parameters, each takes one entry of the script and
counts one cycle. -/
def Obligations.ParametersNeverChange : Prop :=
  ∀ s t : State, step s = .next t → t.cfg = s.cfg ∧ t.script = s.script.tail ∧ t.cycle = s.cycle + 1

/-- spec/20_memory.md R72: a system address selects a register exactly inside the 32 bytes at REG_BASE, whatever REG_BASE
is. -/
def Obligations.WindowIsThirtyTwoBytes : Prop :=
  ∀ address offset : Nat, windowOffset address = some offset ↔ (offset < 0x20 ∧ address = Config.regBase + offset)
end

