-- ==== Sys2Proof/Laws/Codec.lean ====
section
/-! SUPPORT. What the decoder can answer, and what a decoded sample is. -/

namespace Sys2Proof

/-- The instructions that are command words (the first six rows of spec/opcode_table.json). -/
def encodesCommand : Instr → Bool
  | .getT | .getH | .getData | .setPrecision _ | .softReset | .waitSafe _ => true
  | .sensorTrigTHold | .sensorTrigHHold | .sensorTrigTNohold | .sensorTrigHNohold => false
  | .sensorWriteUserreg _ | .sensorReadUserreg | .sensorSoftReset => false

theorem withoutArg_ok {i j : Instr} {arg : Byte} : withoutArg i arg = .ok j ↔ arg = 0 ∧ i = j := by
  unfold withoutArg
  split <;> simp_all

/-- A command word decodes to a command, never to a sensor frame. -/
theorem decode_command_kind (w : Word) (i : Instr) (h : decode (.command w) = .ok i) : encodesCommand i = true := by
  simp only [decode, decodeCommand, decodeOp] at h
  repeat' split at h
  all_goals first
    | (rw [withoutArg_ok] at h; obtain ⟨-, rfl⟩ := h; rfl)
    | (cases h; done)
    | (cases h; rfl)

namespace Machine

/-- A word that decodes is legal by the formula of spec/30_encoding.md R88. -/
theorem legal_of_decode (w : Word) (i) (h : decode (.command w) = .ok i) : legal w = true := by
  simp only [decode, decodeCommand, decodeOp] at h
  have ha : argField w = w.extractLsb' 8 8 := rfl
  have hm : maskRest w = w.extractLsb' 10 6 := rfl
  have h0 : rsv0Field w = w.extractLsb' 4 4 := rfl
  have h1 : rsv1Field w = w.extractLsb' 16 16 := rfl
  unfold legal; rw [← ha, ← hm, ← h0, ← h1]
  repeat' split at h
  all_goals first
    | (rw [withoutArg_ok] at h; obtain ⟨h, -⟩ := h; simp_all)
    | (cases h; done)
    | simp_all

theorem maskedSample_toNat (b0 b1 : Byte) :
    (maskedSample b0 b1).toNat = (b0.toNat * 256 + b1.toNat) / 4 * 4 := by
  have hraw : (rawSample b0 b1).toNat = b0.toNat * 256 + b1.toNat := by
    unfold rawSample
    rw [BitVec.toNat_append, Nat.shiftLeft_eq, Nat.mul_comm]
    exact (Nat.two_pow_add_eq_or_of_lt b1.isLt b0.toNat).symm.trans (by omega)
  have hm : (maskedSample b0 b1) = (rawSample b0 b1 >>> 2) <<< 2 := by
    unfold maskedSample
    ext i hi
    have : i = 0 ∨ i = 1 ∨ i = 2 ∨ i = 3 ∨ i = 4 ∨ i = 5 ∨ i = 6 ∨ i = 7 ∨ i = 8 ∨ i = 9 ∨ i = 10 ∨ i = 11 ∨ i = 12
        ∨ i = 13 ∨ i = 14 ∨ i = 15 := by omega
    rcases this with h | h | h | h | h | h | h | h | h | h | h | h | h | h | h | h <;> subst h <;> simp
  have hlt := (rawSample b0 b1).isLt
  rw [hm, BitVec.toNat_shiftLeft, BitVec.toNat_ushiftRight, Nat.shiftLeft_eq, Nat.shiftRight_eq_div_pow, hraw]
  omega

theorem maskedSample_le (b0 b1 : Byte) : (maskedSample b0 b1).toNat ≤ 65532 := by
  have h0 := b0.isLt
  have h1 := b1.isLt
  rw [maskedSample_toNat]; omega

/-- The decoded `int32` is the exact integer of spec/40_codec.md R103. -/
theorem decodeSample_toInt (q : Quantity) (b0 b1 : Byte) :
    (decodeSample q b0 b1).toInt = transfer q (maskedSample b0 b1).toNat := by
  have hle := maskedSample_le b0 b1
  unfold decodeSample
  rw [BitVec.toInt_ofInt]
  generalize (maskedSample b0 b1).toNat = m at hle
  apply Int.bmod_eq_of_le <;> cases q <;> simp only [transfer] <;> omega

/-- No decoded value is the no-data sentinel (R104). -/
theorem decodeSample_ne_noData (q : Quantity) (b0 b1 : Byte) : decodeSample q b0 b1 ≠ noData := by
  intro h
  have hi := decodeSample_toInt q b0 b1
  have hle := maskedSample_le b0 b1
  rw [h, show noData.toInt = -2147483648 by decide] at hi
  cases q <;> simp only [transfer] at hi <;> omega

/-- The status bits do not matter (R106): the sample depends on the second byte through its upper six bits only. -/
theorem decodeSample_congr (q : Quantity) (b0 b1 b1' : Byte) (h : b1 >>> 2 = b1' >>> 2) :
    decodeSample q b0 b1 = decodeSample q b0 b1' := by
  unfold decodeSample
  have hn : b1.toNat / 4 = b1'.toNat / 4 := by
    have := congrArg BitVec.toNat h
    simpa [BitVec.toNat_ushiftRight, Nat.shiftRight_eq_div_pow] using this
  have : (maskedSample b0 b1).toNat = (maskedSample b0 b1').toNat := by
    rw [maskedSample_toNat, maskedSample_toNat]; omega
  rw [this]

end Machine

end Sys2Proof
end

