-- ==== Sys2Proof/Laws/State.lean ====
section
/-! SUPPORT. One lemma per field per plain update of the state, so that no later proof unfolds a record update; and the
two-quantity accessors. -/

namespace Sys2Proof.Machine

@[simp] theorem chan_t (s : State) : s.chan .t = s.t := rfl
@[simp] theorem chan_h (s : State) : s.chan .h = s.h := rfl
@[simp] theorem setChan_t (s : State) (c : Channel) : s.setChan .t c = { s with t := c } := rfl
@[simp] theorem setChan_h (s : State) (c : Channel) : s.setChan .h c = { s with h := c } := rfl

theorem chan_setChan (s : State) (q : Quantity) (c : Channel) : (s.setChan q c).chan q = c := by cases q <;> rfl

theorem chan_setChan_of_ne (s : State) (q q' : Quantity) (c : Channel) (h : q' ≠ q) :
    (s.setChan q c).chan q' = s.chan q' := by
  cases q <;> cases q' <;> first | rfl | exact absurd rfl h

/-! ### startTxn -/

@[simp] theorem startTxn_phase (x : Txn) (s : State) : (startTxn x s).phase = s.phase := rfl
@[simp] theorem startTxn_pend (x : Txn) (s : State) : (startTxn x s).pend = true := rfl
@[simp] theorem startTxn_qCur (x : Txn) (s : State) : (startTxn x s).qCur = s.qCur := rfl
@[simp] theorem startTxn_thenH (x : Txn) (s : State) : (startTxn x s).thenH = s.thenH := rfl
@[simp] theorem startTxn_mode (x : Txn) (s : State) : (startTxn x s).mode = s.mode := rfl
@[simp] theorem startTxn_nacks (x : Txn) (s : State) : (startTxn x s).nacks = s.nacks := rfl
@[simp] theorem startTxn_dcnt (x : Txn) (s : State) : (startTxn x s).dcnt = s.dcnt := rfl
@[simp] theorem startTxn_wmask (x : Txn) (s : State) : (startTxn x s).wmask = s.wmask := rfl
@[simp] theorem startTxn_wkind (x : Txn) (s : State) : (startTxn x s).wkind = s.wkind := rfl
@[simp] theorem startTxn_warg (x : Txn) (s : State) : (startTxn x s).warg = s.warg := rfl
@[simp] theorem startTxn_hold (x : Txn) (s : State) : (startTxn x s).hold = s.hold := rfl
@[simp] theorem startTxn_prec (x : Txn) (s : State) : (startTxn x s).prec = s.prec := rfl
@[simp] theorem startTxn_t (x : Txn) (s : State) : (startTxn x s).t = s.t := rfl
@[simp] theorem startTxn_h (x : Txn) (s : State) : (startTxn x s).h = s.h := rfl
@[simp] theorem startTxn_cmdErr (x : Txn) (s : State) : (startTxn x s).cmdErr = s.cmdErr := rfl
@[simp] theorem startTxn_ovr (x : Txn) (s : State) : (startTxn x s).ovr = s.ovr := rfl
@[simp] theorem startTxn_rdata (x : Txn) (s : State) : (startTxn x s).rdata = s.rdata := rfl
@[simp] theorem startTxn_issue (x : Txn) (s : State) : (startTxn x s).issue = some x := rfl
@[simp] theorem startTxn_history (x : Txn) (s : State) : (startTxn x s).history = .issued x :: s.history := rfl
@[simp] theorem startTxn_cfg (x : Txn) (s : State) : (startTxn x s).cfg = s.cfg := rfl
@[simp] theorem startTxn_script (x : Txn) (s : State) : (startTxn x s).script = s.script := rfl
@[simp] theorem startTxn_cycle (x : Txn) (s : State) : (startTxn x s).cycle = s.cycle := rfl

/-! ### consume -/

@[simp] theorem consume_phase (r : Response) (s : State) : (consume r s).phase = s.phase := rfl
@[simp] theorem consume_pend (r : Response) (s : State) : (consume r s).pend = false := rfl
@[simp] theorem consume_qCur (r : Response) (s : State) : (consume r s).qCur = s.qCur := rfl
@[simp] theorem consume_thenH (r : Response) (s : State) : (consume r s).thenH = s.thenH := rfl
@[simp] theorem consume_mode (r : Response) (s : State) : (consume r s).mode = s.mode := rfl
@[simp] theorem consume_nacks (r : Response) (s : State) : (consume r s).nacks = s.nacks := rfl
@[simp] theorem consume_dcnt (r : Response) (s : State) : (consume r s).dcnt = s.dcnt := rfl
@[simp] theorem consume_wmask (r : Response) (s : State) : (consume r s).wmask = s.wmask := rfl
@[simp] theorem consume_wkind (r : Response) (s : State) : (consume r s).wkind = s.wkind := rfl
@[simp] theorem consume_warg (r : Response) (s : State) : (consume r s).warg = s.warg := rfl
@[simp] theorem consume_hold (r : Response) (s : State) : (consume r s).hold = s.hold := rfl
@[simp] theorem consume_prec (r : Response) (s : State) : (consume r s).prec = s.prec := rfl
@[simp] theorem consume_t (r : Response) (s : State) : (consume r s).t = s.t := rfl
@[simp] theorem consume_h (r : Response) (s : State) : (consume r s).h = s.h := rfl
@[simp] theorem consume_cmdErr (r : Response) (s : State) : (consume r s).cmdErr = s.cmdErr := rfl
@[simp] theorem consume_ovr (r : Response) (s : State) : (consume r s).ovr = s.ovr := rfl
@[simp] theorem consume_rdata (r : Response) (s : State) : (consume r s).rdata = s.rdata := rfl
@[simp] theorem consume_issue (r : Response) (s : State) : (consume r s).issue = s.issue := rfl
@[simp] theorem consume_history (r : Response) (s : State) : (consume r s).history = .consumed r :: s.history := rfl
@[simp] theorem consume_cfg (r : Response) (s : State) : (consume r s).cfg = s.cfg := rfl
@[simp] theorem consume_script (r : Response) (s : State) : (consume r s).script = s.script := rfl
@[simp] theorem consume_cycle (r : Response) (s : State) : (consume r s).cycle = s.cycle := rfl

/-! ### startMeasurement -/

@[simp] theorem startMeasurement_phase (q : Quantity) (b : Bool) (s : State) : (startMeasurement q b s).phase = .trig := rfl
@[simp] theorem startMeasurement_pend (q : Quantity) (b : Bool) (s : State) : (startMeasurement q b s).pend = s.pend := rfl
@[simp] theorem startMeasurement_qCur (q : Quantity) (b : Bool) (s : State) : (startMeasurement q b s).qCur = q := rfl
@[simp] theorem startMeasurement_thenH (q : Quantity) (b : Bool) (s : State) : (startMeasurement q b s).thenH = b := rfl
@[simp] theorem startMeasurement_mode (q : Quantity) (b : Bool) (s : State) : (startMeasurement q b s).mode = s.mode := rfl
@[simp] theorem startMeasurement_nacks (q : Quantity) (b : Bool) (s : State) : (startMeasurement q b s).nacks = s.nacks := rfl
@[simp] theorem startMeasurement_dcnt (q : Quantity) (b : Bool) (s : State) : (startMeasurement q b s).dcnt = s.dcnt := rfl
@[simp] theorem startMeasurement_wmask (q : Quantity) (b : Bool) (s : State) : (startMeasurement q b s).wmask = s.wmask := rfl
@[simp] theorem startMeasurement_wkind (q : Quantity) (b : Bool) (s : State) : (startMeasurement q b s).wkind = s.wkind := rfl
@[simp] theorem startMeasurement_warg (q : Quantity) (b : Bool) (s : State) : (startMeasurement q b s).warg = s.warg := rfl
@[simp] theorem startMeasurement_hold (q : Quantity) (b : Bool) (s : State) : (startMeasurement q b s).hold = s.hold := rfl
@[simp] theorem startMeasurement_prec (q : Quantity) (b : Bool) (s : State) : (startMeasurement q b s).prec = s.prec := rfl
@[simp] theorem startMeasurement_t (q : Quantity) (b : Bool) (s : State) : (startMeasurement q b s).t = s.t := rfl
@[simp] theorem startMeasurement_h (q : Quantity) (b : Bool) (s : State) : (startMeasurement q b s).h = s.h := rfl
@[simp] theorem startMeasurement_cmdErr (q : Quantity) (b : Bool) (s : State) : (startMeasurement q b s).cmdErr = s.cmdErr := rfl
@[simp] theorem startMeasurement_ovr (q : Quantity) (b : Bool) (s : State) : (startMeasurement q b s).ovr = s.ovr := rfl
@[simp] theorem startMeasurement_rdata (q : Quantity) (b : Bool) (s : State) : (startMeasurement q b s).rdata = s.rdata := rfl
@[simp] theorem startMeasurement_issue (q : Quantity) (b : Bool) (s : State) : (startMeasurement q b s).issue = s.issue := rfl
@[simp] theorem startMeasurement_history (q : Quantity) (b : Bool) (s : State) : (startMeasurement q b s).history = s.history := rfl
@[simp] theorem startMeasurement_cfg (q : Quantity) (b : Bool) (s : State) : (startMeasurement q b s).cfg = s.cfg := rfl
@[simp] theorem startMeasurement_script (q : Quantity) (b : Bool) (s : State) : (startMeasurement q b s).script = s.script := rfl
@[simp] theorem startMeasurement_cycle (q : Quantity) (b : Bool) (s : State) : (startMeasurement q b s).cycle = s.cycle := rfl

/-! ### acceptClears -/

@[simp] theorem acceptClears_phase (s : State) : (acceptClears s).phase = s.phase := rfl
@[simp] theorem acceptClears_pend (s : State) : (acceptClears s).pend = s.pend := rfl
@[simp] theorem acceptClears_qCur (s : State) : (acceptClears s).qCur = s.qCur := rfl
@[simp] theorem acceptClears_thenH (s : State) : (acceptClears s).thenH = s.thenH := rfl
@[simp] theorem acceptClears_mode (s : State) : (acceptClears s).mode = s.hold := rfl
@[simp] theorem acceptClears_nacks (s : State) : (acceptClears s).nacks = s.nacks := rfl
@[simp] theorem acceptClears_dcnt (s : State) : (acceptClears s).dcnt = s.dcnt := rfl
@[simp] theorem acceptClears_wmask (s : State) : (acceptClears s).wmask = s.wmask := rfl
@[simp] theorem acceptClears_wkind (s : State) : (acceptClears s).wkind = s.wkind := rfl
@[simp] theorem acceptClears_warg (s : State) : (acceptClears s).warg = s.warg := rfl
@[simp] theorem acceptClears_hold (s : State) : (acceptClears s).hold = s.hold := rfl
@[simp] theorem acceptClears_prec (s : State) : (acceptClears s).prec = s.prec := rfl
@[simp] theorem acceptClears_t (s : State) : (acceptClears s).t = { s.t with fresh := false, err := .none } := rfl
@[simp] theorem acceptClears_h (s : State) : (acceptClears s).h = { s.h with fresh := false, err := .none } := rfl
@[simp] theorem acceptClears_cmdErr (s : State) : (acceptClears s).cmdErr = .none := rfl
@[simp] theorem acceptClears_ovr (s : State) : (acceptClears s).ovr = s.ovr := rfl
@[simp] theorem acceptClears_rdata (s : State) : (acceptClears s).rdata = s.rdata := rfl
@[simp] theorem acceptClears_issue (s : State) : (acceptClears s).issue = s.issue := rfl
@[simp] theorem acceptClears_history (s : State) : (acceptClears s).history = s.history := rfl
@[simp] theorem acceptClears_cfg (s : State) : (acceptClears s).cfg = s.cfg := rfl
@[simp] theorem acceptClears_script (s : State) : (acceptClears s).script = s.script := rfl
@[simp] theorem acceptClears_cycle (s : State) : (acceptClears s).cycle = s.cycle := rfl

/-! ### beginCycle -/

@[simp] theorem beginCycle_phase (s : State) : (beginCycle s).phase = s.phase := rfl
@[simp] theorem beginCycle_pend (s : State) : (beginCycle s).pend = s.pend := rfl
@[simp] theorem beginCycle_qCur (s : State) : (beginCycle s).qCur = s.qCur := rfl
@[simp] theorem beginCycle_thenH (s : State) : (beginCycle s).thenH = s.thenH := rfl
@[simp] theorem beginCycle_mode (s : State) : (beginCycle s).mode = s.mode := rfl
@[simp] theorem beginCycle_nacks (s : State) : (beginCycle s).nacks = s.nacks := rfl
@[simp] theorem beginCycle_dcnt (s : State) : (beginCycle s).dcnt = s.dcnt := rfl
@[simp] theorem beginCycle_wmask (s : State) : (beginCycle s).wmask = s.wmask := rfl
@[simp] theorem beginCycle_wkind (s : State) : (beginCycle s).wkind = s.wkind := rfl
@[simp] theorem beginCycle_warg (s : State) : (beginCycle s).warg = s.warg := rfl
@[simp] theorem beginCycle_hold (s : State) : (beginCycle s).hold = s.hold := rfl
@[simp] theorem beginCycle_prec (s : State) : (beginCycle s).prec = s.prec := rfl
@[simp] theorem beginCycle_t (s : State) : (beginCycle s).t = { s.t with armedNow := false } := rfl
@[simp] theorem beginCycle_h (s : State) : (beginCycle s).h = { s.h with armedNow := false } := rfl
@[simp] theorem beginCycle_cmdErr (s : State) : (beginCycle s).cmdErr = s.cmdErr := rfl
@[simp] theorem beginCycle_ovr (s : State) : (beginCycle s).ovr = s.ovr := rfl
@[simp] theorem beginCycle_rdata (s : State) : (beginCycle s).rdata = none := rfl
@[simp] theorem beginCycle_issue (s : State) : (beginCycle s).issue = none := rfl
@[simp] theorem beginCycle_history (s : State) : (beginCycle s).history = s.history := rfl
@[simp] theorem beginCycle_cfg (s : State) : (beginCycle s).cfg = s.cfg := rfl
@[simp] theorem beginCycle_script (s : State) : (beginCycle s).script = s.script.tail := rfl
@[simp] theorem beginCycle_cycle (s : State) : (beginCycle s).cycle = s.cycle + 1 := rfl

end Sys2Proof.Machine
end

