-- ==== Sys2Proof/Laws/Ops.lean ====
section
/-! SUPPORT. One lemma per shared operation, saying once everything it can do. -/

namespace Sys2Proof.Machine

/-! ### Outcomes -/

@[simp] theorem chain_next (s : State) (f : State → Result) : chain (.next s) f = f s := rfl
@[simp] theorem chain_fault (e : Fault) (f : State → Result) : chain (.fault e) f = .fault e := rfl
@[simp] theorem chain_refused (e : Refusal) (f : State → Result) : chain (.refused e) f = .refused e := rfl

theorem chain_eq_next {r : Result} {f : State → Result} {t : State} :
    chain r f = .next t ↔ ∃ s, r = .next s ∧ f s = .next t := by
  cases r <;> simp [chain]

/-! ### Timers -/

theorem tickChannel_eq (c : Channel) : tickChannel c =
    { c with
      safe := c.safe || (!c.armedNow && c.cnt == 0)
      cnt := if c.armedNow || c.safe || c.cnt == 0 then c.cnt else c.cnt - 1 } := by
  unfold tickChannel
  rcases c with ⟨_, _, _, _, safe, cnt, armed⟩
  by_cases h : cnt = 0#32 <;> cases safe <;> cases armed <;> simp [h]

/-- A tick writes nothing but the two timers (spec/42_cooldown.md R141). -/
theorem cooldownTick_eq (tick : Bool) (s : State) : cooldownTick tick s =
    { s with
      t := if tick then tickChannel s.t else s.t
      h := if tick then tickChannel s.h else s.h } := by
  cases tick <;> rfl

/-! ### The transaction port -/

theorem issueWrite_of_free (bytes : List Byte) (s : State) (h : s.pend = false) :
    issueWrite bytes s = startTxn (.busWrite s.cfg.devAddr bytes) s := by
  simp [issueWrite, h]

theorem issueWrite_of_pend (bytes : List Byte) (s : State) (h : s.pend = true) : issueWrite bytes s = s := by
  simp [issueWrite, h]

/-- A frame in progress runs as the write of its bytes: the four phases that issue one (spec/30_encoding.md R84). -/
theorem issueFrame_eq (s : State) (bytes : List Byte) (h : phaseFrame s = some bytes) :
    issueFrame s = .next (issueWrite bytes s) := by
  unfold issueFrame
  rw [h]
  unfold phaseFrame at h
  split at h
  · cases h; rfl
  · cases h; rfl
  · cases h
    cases s.qCur <;> cases s.mode <;> rfl
  · split at h <;> cases h <;> rfl
  all_goals cases h

/-! ### Waits -/

/-- `EnterDelay` writes the phase and, for a wait that waits, `dcnt` (spec/41_measurement.md R111). -/
theorem enterDelay_eq (n : BitVec 16) (d p : Phase) (s : State) : enterDelay n d p s =
    { s with
      phase := if n = 0 then p else d
      dcnt := if n = 0 then s.dcnt else n } := by
  unfold enterDelay; split <;> rfl

/-- `DelayPhase` writes the phase or `dcnt`, on a tick only (R112). -/
theorem waitDelay_eq (p : Phase) (tick : Bool) (s : State) : waitDelay p tick s =
    { s with
      phase := if tick = true ∧ s.dcnt = 0 then p else s.phase
      dcnt := if tick = true ∧ s.dcnt ≠ 0 then s.dcnt - 1 else s.dcnt } := by
  unfold waitDelay
  cases tick
  · simp
  · by_cases h : s.dcnt = 0
    · rw [if_pos rfl, if_pos h, if_pos ⟨rfl, h⟩, if_neg fun hn => hn.2 h]
    · rw [if_pos rfl, if_neg h, if_neg fun hp => h hp.2, if_pos ⟨rfl, h⟩]

/-! ### Measurements -/

theorem endMeasurement_eq (q : Quantity) (s : State) : endMeasurement q s =
    { s with
      qCur := if q = .t ∧ s.thenH = true then .h else s.qCur
      thenH := if q = .t ∧ s.thenH = true then false else s.thenH
      phase := if q = .t ∧ s.thenH = true then .trig else .idle } := by
  unfold endMeasurement; split <;> rfl

/-! ### Commands -/

theorem acceptCommand_idle (body : State → State) (s : State) (h : s.phase = .idle) :
    acceptCommand body s = body (acceptClears s) := by
  simp [acceptCommand, h]

theorem acceptCommand_busy (body : State → State) (s : State) (h : s.phase ≠ .idle) :
    acceptCommand body s = { s with ovr := true } := by
  simp [acceptCommand, h]

/-- The commands are dropped while the block is busy (spec/20_memory.md R63). -/
theorem exec_command_busy (i : Instr) (w : Word) (s : State) (hd : decode (.command w) = .ok i) (h : s.phase ≠ .idle) :
    exec i s = .next { s with ovr := true } := by
  have hc : encodesCommand i = true := decode_command_kind w i hd
  cases i <;> first
    | (cases hc; done)
    | simp [exec, execGetT, execGetH, execGetData, execSetPrecision, execSoftReset, execWaitSafe,
        acceptCommand_busy _ _ h]

/-- Every word written to CMD while the block is busy is dropped (R63). -/
theorem writeCommand_busy (w : Word) (s : State) (h : s.phase ≠ .idle) :
    writeCommand w s = .next { s with ovr := true } := by
  unfold writeCommand
  split
  · rename_i i hd; exact exec_command_busy i w s hd h
  · simp [illegalCommand, acceptCommand_busy _ _ h]

/-! ### The host port -/

/-- While the block is busy the host's access does what `busyHost` says (spec/20_memory.md R62, R63). -/
theorem hostStep_busy (host : Option HostAccess) (s : State) (h : s.phase ≠ .idle) :
    hostStep host s = .next (busyHost host s) := by
  rcases host with _ | ⟨offset, width⟩ | ⟨offset, width, w⟩
  · rfl
  · rfl
  · simp only [hostStep, busyHost, regWrite]
    split
    · simp [writeCommand_busy w s h]
    · cases w.getLsbD 7 <;> rfl
    · rfl
    · rename_i h0 h4 h8
      have h0' : offset ≠ 0 := h0
      have h4' : offset ≠ 4 := h4
      have h8' : offset ≠ 8 := h8
      simp [h0', h4', h8']

/-- A busy host access writes OVR, HOLD and the data returned, and nothing else. -/
theorem busyHost_eq (host : Option HostAccess) (s : State) : busyHost host s =
    { s with ovr := (busyHost host s).ovr, hold := (busyHost host s).hold, rdata := (busyHost host s).rdata } := by
  rcases host with _ | ⟨_, _⟩ | ⟨_, _, _⟩ <;> rfl

end Sys2Proof.Machine
end

