-- ==== Sys2Proof/Laws/Step.lean ====
section
/-! SUPPORT. What a step can do, said once: the inversion of `step`, of a cycle's parts and of each phase's arm. -/

namespace Sys2Proof.Machine

/-! ### The free draws meet the contracts (log entry 1) -/

theorem freeHost_admitted (n : Nat) : hostAdmitted (freeHost n) = true := by
  have hlt := (Config.freeHostReg n).isLt
  have hoff : offsetAdmitted (4 * (Config.freeHostReg n).toNat) .word = true := by
    simp only [offsetAdmitted, Bool.and_eq_true, decide_eq_true_eq, beq_iff_eq]
    refine ⟨⟨trivial, ?_⟩, ?_⟩ <;> omega
  unfold freeHost
  split
  · split <;> exact hoff
  · rfl

theorem freeResponse_admitted (s : State) : responseAdmitted s (freeResponse s) = true := by
  unfold freeResponse
  split
  · rename_i h
    have hp : s.pend = true := by
      cases hs : s.pend
      · simp [hs] at h
      · rfl
    split
    · rename_i hk; split <;> simp [responseAdmitted, responseKind, hp, hk]
    · rename_i hk; split <;> simp [responseAdmitted, responseKind, hp, hk]
    · rfl
  · rfl

/-! ### The start of a cycle -/

@[simp] theorem beginCycle_responseAdmitted (s : State) (r : Option Response) :
    responseAdmitted (beginCycle s) r = responseAdmitted s r := by cases r <;> rfl

theorem cycleInput_cons (s : State) (inp : CycleInput) (rest : List CycleInput) (h : s.script = inp :: rest) :
    cycleInput s = inp := by simp [cycleInput, h]

/-! ### The inversion of a step -/

/-- Everything a step that goes on can be: the parameters are admitted, and the cycle is a reset or its parts, the inputs
within their contracts. -/
theorem step_eq_next {s t : State} : step s = .next t ↔
    paramsAdmitted s.cfg = true ∧
      (((cycleInput s).rst = true ∧ resetBlock (beginCycle s) = t)
        ∨ ((cycleInput s).rst = false ∧ hostAdmitted (cycleInput s).host = true
          ∧ responseAdmitted s (cycleInput s).rsp = true ∧ runParts (cycleInput s) (beginCycle s) = .next t)) := by
  unfold step stepCycle
  by_cases hp : paramsAdmitted s.cfg = true
  · rw [if_neg (by simp [hp])]
    unfold runCycle
    by_cases hr : (cycleInput s).rst = true
    · rw [if_pos hr]; simp [hp, hr]
    · rw [if_neg hr]
      have hr' : (cycleInput s).rst = false := by simpa using hr
      by_cases hh : hostAdmitted (cycleInput s).host = true
      · rw [if_neg (by simp [hh])]
        by_cases ha : responseAdmitted s (cycleInput s).rsp = true
        · rw [if_neg (by simp [ha])]; simp [hp, hr', hh, ha]
        · rw [if_pos (by simp [ha])]; simp [ha, hr']
      · rw [if_pos (by simp [hh])]; simp [hh, hr']
  · rw [if_pos (by simp [hp])]; simp [hp]

/-- The parts of a cycle that starts in IDLE: the host's access, then the tick. -/
theorem runParts_idle (inp : CycleInput) (s : State) (h : s.phase = .idle) :
    runParts inp s = chain (hostStep inp.host s) fun s1 => .next (cooldownTick inp.tick s1) := by
  unfold runParts; rw [h]; rfl

/-- The parts of a cycle that starts busy: the host's access never stops it. -/
theorem runParts_busy (inp : CycleInput) (s : State) (h : s.phase ≠ .idle) :
    runParts inp s = chain (fsmStep s.phase inp.tick inp.rsp (busyHost inp.host s)) fun s2 =>
      .next (cooldownTick inp.tick s2) := by
  unfold runParts; rw [hostStep_busy _ _ h]; rfl

/-! ### The arms -/

theorem phaseFrame_isSome_of_kind (s : State) (h : outstandingKind s.phase = some .write) :
    ∃ bytes, phaseFrame s = some bytes := by
  unfold phaseFrame
  cases hp : s.phase <;> simp [hp, outstandingKind] at h ⊢
  cases s.wkind <;> simp

/-- What a bus phase does to a state: the request's result, or the answer's, or nothing yet. -/
def busNext (req : State) (f : Response → State → State) (rsp : Option Response) (s : State) : State :=
  if s.pend then
    match rsp with
    | some r => f r (consume r s)
    | none => s
  else req

/-- The three cases of a bus phase (spec/41_measurement.md R110). -/
theorem busNext_cases (req : State) (f : Response → State → State) (rsp : Option Response) (s : State) :
    (s.pend = false ∧ busNext req f rsp s = req)
      ∨ (s.pend = true ∧ rsp = none ∧ busNext req f rsp s = s)
      ∨ (s.pend = true ∧ ∃ r, rsp = some r ∧ busNext req f rsp s = f r (consume r s)) := by
  unfold busNext
  cases hp : s.pend
  · exact .inl ⟨rfl, rfl⟩
  · cases rsp with
    | none => exact .inr (.inl ⟨rfl, rfl, rfl⟩)
    | some r => exact .inr (.inr ⟨rfl, r, rfl, rfl⟩)

theorem busPhase_next (req : State → Result) (u : State) (f : Response → State → State) (rsp : Option Response)
    (s : State) (h : req s = .next u) : busPhase req f rsp s = .next (busNext u f rsp s) := by
  unfold busPhase busNext
  split
  · cases rsp <;> rfl
  · exact h

/-- What the arm of a phase does to a state in that phase: a total function. -/
def fsmNext (tick : Bool) (rsp : Option Response) (s : State) : State :=
  let frame : State := issueWrite ((phaseFrame s).getD []) s
  match s.phase with
  | .idle => s
  | .initRst => busNext frame onInitRst rsp s
  | .initSettle => waitDelay .initPrec tick s
  | .initPrec => busNext frame onInitPrec rsp s
  | .trig => busNext frame onTrig rsp s
  | .delay | .gap => waitDelay .read tick s
  | .read => busNext (startTxn (.busRead s.cfg.devAddr 3) s) onRead rsp s
  | .wrcmd => busNext frame onWrcmd rsp s
  | .waitsafe => if waitSatisfied s then { s with phase := .idle } else s

/-- The arm of the phase a state is in always answers with a next state. -/
theorem fsmStep_eq (tick : Bool) (rsp : Option Response) (s : State) :
    fsmStep s.phase tick rsp s = .next (fsmNext tick rsp s) := by
  have hframe : outstandingKind s.phase = some .write → issueFrame s = .next (issueWrite ((phaseFrame s).getD []) s) := by
    intro h
    obtain ⟨bytes, hb⟩ := phaseFrame_isSome_of_kind s h
    rw [issueFrame_eq s bytes hb, hb]; rfl
  unfold fsmNext
  cases hp : s.phase <;> simp only [fsmStep]
  all_goals first
    | rfl
    | exact busPhase_next _ _ _ _ _ (hframe (by rw [hp]; rfl))
    | exact busPhase_next _ _ _ _ _ rfl

@[simp] theorem busyHost_phase (host : Option HostAccess) (s : State) : (busyHost host s).phase = s.phase := by
  rw [busyHost_eq]

/-- A cycle that starts busy, as one function of the start-of-cycle state. -/
theorem runParts_busy_eq (inp : CycleInput) (s : State) (h : s.phase ≠ .idle) :
    runParts inp s = .next (cooldownTick inp.tick (fsmNext inp.tick inp.rsp (busyHost inp.host s))) := by
  rw [runParts_busy _ _ h, ← busyHost_phase inp.host s, fsmStep_eq]; rfl

/-- What the arms leave alone: the latched mode, the operand latches of a command, the host's fields and the model's own. -/
def FsmFrame (s t : State) : Prop :=
  t.mode = s.mode ∧ t.wmask = s.wmask ∧ t.wkind = s.wkind ∧ t.warg = s.warg ∧ t.hold = s.hold ∧ t.ovr = s.ovr
    ∧ t.rdata = s.rdata ∧ t.cfg = s.cfg ∧ t.script = s.script ∧ t.cycle = s.cycle

theorem FsmFrame.refl (s : State) : FsmFrame s s := ⟨rfl, rfl, rfl, rfl, rfl, rfl, rfl, rfl, rfl, rfl⟩

theorem endMeasurement_frame (q : Quantity) (s : State) : FsmFrame s (endMeasurement q s) := by
  rw [endMeasurement_eq]; exact FsmFrame.refl s

theorem finishOk_frame (q : Quantity) (n : Word) (s : State) : FsmFrame s (finishOk q n s) := by
  unfold finishOk; rw [endMeasurement_eq]; cases q <;> exact FsmFrame.refl s

theorem finishFail_frame (q : Quantity) (e : ErrCode) (s : State) : FsmFrame s (finishFail q e s) := by
  unfold finishFail; rw [endMeasurement_eq]; cases q <;> exact FsmFrame.refl s

theorem issueWrite_frame (bytes : List Byte) (s : State) : FsmFrame s (issueWrite bytes s) := by
  unfold issueWrite; split <;> exact FsmFrame.refl s

theorem onTrig_frame (r : Response) (s : State) : FsmFrame s (onTrig r s) := by
  cases r
  · unfold onTrig; rw [enterDelay_eq]; simp only; split <;> exact FsmFrame.refl s
  · exact finishFail_frame _ _ s
  all_goals exact FsmFrame.refl s

theorem onRead_frame (r : Response) (s : State) : FsmFrame s (onRead r s) := by
  cases r
  · exact FsmFrame.refl s
  · exact FsmFrame.refl s
  · exact finishOk_frame _ _ s
  · unfold onRead; rw [enterDelay_eq]; simp only
    split
    · exact finishFail_frame _ _ s
    · split
      · exact finishFail_frame _ _ s
      · exact FsmFrame.refl s

theorem onWrcmd_frame (r : Response) (s : State) : FsmFrame s (onWrcmd r s) := by
  cases r
  · unfold onWrcmd; simp only; split <;> exact FsmFrame.refl s
  all_goals exact FsmFrame.refl s

theorem onInitRst_frame (r : Response) (s : State) : FsmFrame s (onInitRst r s) := by
  cases r <;> simp only [onInitRst, enterDelay_eq] <;> exact FsmFrame.refl s

theorem onInitPrec_frame (r : Response) (s : State) : FsmFrame s (onInitPrec r s) := by
  cases r <;> exact FsmFrame.refl s

theorem busNext_frame (req : State) (f : Response → State → State) (rsp : Option Response) (s : State)
    (hreq : FsmFrame s req) (hf : ∀ r u, FsmFrame u (f r u)) : FsmFrame s (busNext req f rsp s) := by
  rcases busNext_cases req f rsp s with ⟨_, h⟩ | ⟨_, _, h⟩ | ⟨_, r, _, h⟩ <;> rw [h]
  · exact hreq
  · exact FsmFrame.refl s
  · exact hf r (consume r s)

/-- Every arm keeps the frame. -/
theorem fsmNext_frame (tick : Bool) (rsp : Option Response) (s : State) : FsmFrame s (fsmNext tick rsp s) := by
  unfold fsmNext
  split
  · exact FsmFrame.refl s
  · exact busNext_frame _ _ _ _ (issueWrite_frame _ s) onInitRst_frame
  · rw [waitDelay_eq]; exact FsmFrame.refl s
  · exact busNext_frame _ _ _ _ (issueWrite_frame _ s) onInitPrec_frame
  · exact busNext_frame _ _ _ _ (issueWrite_frame _ s) onTrig_frame
  · rw [waitDelay_eq]; exact FsmFrame.refl s
  · rw [waitDelay_eq]; exact FsmFrame.refl s
  · exact busNext_frame _ _ _ _ (FsmFrame.refl s) onRead_frame
  · exact busNext_frame _ _ _ _ (issueWrite_frame _ s) onWrcmd_frame
  · split <;> exact FsmFrame.refl s

/-! ### What the host's access in IDLE can do -/

/-- The acceptance of any word in IDLE (spec/43_commands.md R160): the clears, then at most the fields that start a
command; and every word is answered. -/
theorem writeCommand_idle (w : Word) (s : State) (h : s.phase = .idle) :
    ∃ q b p wm wk wa e, writeCommand w s = .next { acceptClears s with
        qCur := q, thenH := b, phase := p, wmask := wm, wkind := wk, warg := wa, cmdErr := e }
      ∧ ((p = .idle ∧ q = s.qCur ∧ b = s.thenH ∧ wk = s.wkind ∧ wa = s.warg)
        ∨ (p = .trig ∧ (q = .t → s.t.safe = true) ∧ (q = .h → s.h.safe = true ∧ b = false)
            ∧ (b = true → s.h.safe = true))
        ∨ (p = .wrcmd ∧ (wk = .setp → validPrecision wa = true)) ∨ p = .waitsafe) := by
  unfold writeCommand
  split
  · rename_i i hd
    have hk := decode_command_kind w i hd
    cases i with
    | getT =>
      simp only [exec, execGetT, acceptCommand_idle _ _ h]
      by_cases hs : s.t.safe = true
      · exact ⟨.t, false, .trig, s.wmask, s.wkind, s.warg, .none, by simp [hs, startMeasurement, acceptClears],
          .inr (.inl ⟨rfl, fun _ => hs, by simp, by simp⟩)⟩
      · exact ⟨s.qCur, s.thenH, .idle, s.wmask, s.wkind, s.warg, .none, by simp [hs, acceptClears, h],
          .inl ⟨rfl, rfl, rfl, rfl, rfl⟩⟩
    | getH =>
      simp only [exec, execGetH, acceptCommand_idle _ _ h]
      by_cases hs : s.h.safe = true
      · exact ⟨.h, false, .trig, s.wmask, s.wkind, s.warg, .none, by simp [hs, startMeasurement, acceptClears],
          .inr (.inl ⟨rfl, by simp, fun _ => ⟨hs, rfl⟩, by simp⟩)⟩
      · exact ⟨s.qCur, s.thenH, .idle, s.wmask, s.wkind, s.warg, .none, by simp [hs, acceptClears, h],
          .inl ⟨rfl, rfl, rfl, rfl, rfl⟩⟩
    | getData =>
      simp only [exec, execGetData, acceptCommand_idle _ _ h]
      by_cases hs : s.t.safe = true ∧ s.h.safe = true
      · exact ⟨.t, true, .trig, s.wmask, s.wkind, s.warg, .none, by simp [hs, startMeasurement, acceptClears],
          .inr (.inl ⟨rfl, fun _ => hs.1, by simp, fun _ => hs.2⟩)⟩
      · exact ⟨s.qCur, s.thenH, .idle, s.wmask, s.wkind, s.warg, .none, by simp [hs, acceptClears, h],
          .inl ⟨rfl, rfl, rfl, rfl, rfl⟩⟩
    | setPrecision p =>
      simp only [exec, execSetPrecision, acceptCommand_idle _ _ h]
      by_cases hs : validPrecision p = true
      · exact ⟨s.qCur, s.thenH, .wrcmd, s.wmask, .setp, p, .none, by simp [hs, acceptClears],
          .inr (.inr (.inl ⟨rfl, fun _ => hs⟩))⟩
      · exact ⟨s.qCur, s.thenH, .idle, s.wmask, s.wkind, s.warg, .invalidPrecision, by simp [hs, acceptClears, h],
          .inl ⟨rfl, rfl, rfl, rfl, rfl⟩⟩
    | softReset =>
      simp only [exec, execSoftReset, acceptCommand_idle _ _ h]
      exact ⟨s.qCur, s.thenH, .wrcmd, s.wmask, .srst, s.warg, .none, by simp [acceptClears],
        .inr (.inr (.inl ⟨rfl, by simp⟩))⟩
    | waitSafe m =>
      simp only [exec, execWaitSafe, acceptCommand_idle _ _ h]
      exact ⟨s.qCur, s.thenH, .waitsafe, m, s.wkind, s.warg, .none, by simp [acceptClears], .inr (.inr (.inr rfl))⟩
    | _ => cases hk
  · simp only [illegalCommand, acceptCommand_idle _ _ h]
    exact ⟨s.qCur, s.thenH, .idle, s.wmask, s.wkind, s.warg, .illegalCommand, by simp [acceptClears, h],
      .inl ⟨rfl, rfl, rfl, rfl, rfl⟩⟩

/-- Every host access in IDLE is answered: a command is accepted, any other access does what `busyHost` says. -/
theorem hostStep_idle (host : Option HostAccess) (s : State) :
    (∃ width w, host = some (.write 0x00 width w) ∧ hostStep host s = writeCommand w s)
      ∨ (hostStep host s = .next (busyHost host s)
        ∧ ∀ width w, host ≠ some (.write 0x00 width w)) := by
  rcases host with _ | ⟨offset, width⟩ | ⟨offset, width, w⟩
  · exact .inr ⟨rfl, by simp⟩
  · exact .inr ⟨rfl, by simp⟩
  · by_cases h0 : offset = 0
    · subst h0; exact .inl ⟨width, w, rfl, rfl⟩
    · refine .inr ⟨?_, by simp [h0]⟩
      simp only [hostStep, busyHost, regWrite]
      split
      · exact absurd rfl h0
      · cases w.getLsbD 7 <;> rfl
      · rfl
      · rename_i h4 h8
        have h4' : offset ≠ 4 := h4
        have h8' : offset ≠ 8 := h8
        simp [h0, h4', h8']

end Sys2Proof.Machine
end

