-- ==== Sys2Proof/Laws/Cases.lean ====
section
/-! SUPPORT. The cases of a whole step, each said once: what a step that goes on is, what a host access in IDLE leaves,
what an arm does to the port, and what it does to the recorded data. -/

namespace Sys2Proof.Machine

/-! ### A whole step -/

/-- The three shapes of a step that goes on: a reset, a cycle that starts in IDLE, a cycle that starts busy. -/
theorem step_shape {s t : State} (h : step s = .next t) :
    paramsAdmitted s.cfg = true ∧
      (((cycleInput s).rst = true ∧ t = resetBlock (beginCycle s))
        ∨ ((cycleInput s).rst = false ∧ hostAdmitted (cycleInput s).host = true
          ∧ responseAdmitted s (cycleInput s).rsp = true
          ∧ ((s.phase = .idle ∧ ∃ s1, hostStep (cycleInput s).host (beginCycle s) = .next s1
                ∧ t = cooldownTick (cycleInput s).tick s1)
            ∨ (s.phase ≠ .idle
                ∧ t = cooldownTick (cycleInput s).tick (fsmNext (cycleInput s).tick (cycleInput s).rsp
                    (busyHost (cycleInput s).host (beginCycle s))))))) := by
  obtain ⟨hp, h | ⟨h1, h2, h3, h4⟩⟩ := step_eq_next.1 h
  · exact ⟨hp, .inl ⟨h.1, h.2.symm⟩⟩
  · refine ⟨hp, .inr ⟨h1, h2, h3, ?_⟩⟩
    by_cases hi : s.phase = .idle
    · left; refine ⟨hi, ?_⟩
      rw [runParts_idle _ _ (show (beginCycle s).phase = .idle from hi), chain_eq_next] at h4
      obtain ⟨s1, ha, hb⟩ := h4
      exact ⟨s1, ha, by cases hb; rfl⟩
    · right; refine ⟨hi, ?_⟩
      rw [runParts_busy_eq _ _ (show (beginCycle s).phase ≠ .idle from hi)] at h4
      cases h4; rfl

/-- What the host's access leaves of a cycle that starts in IDLE: an accepted word, or what `busyHost` says. -/
theorem hostStep_idle_shape {s s1 : State} {host : Option HostAccess} (hi : s.phase = .idle)
    (h : hostStep host (beginCycle s) = .next s1) :
    ((∃ width w, host = some (.write 0 width w)) ∧ ∃ q b p wm wk wa e, s1 = { acceptClears (beginCycle s) with
        qCur := q, thenH := b, phase := p, wmask := wm, wkind := wk, warg := wa, cmdErr := e }
      ∧ ((p = .idle ∧ q = s.qCur ∧ b = s.thenH ∧ wk = s.wkind ∧ wa = s.warg)
        ∨ (p = .trig ∧ (q = .t → s.t.safe = true) ∧ (q = .h → s.h.safe = true ∧ b = false)
            ∧ (b = true → s.h.safe = true))
        ∨ (p = .wrcmd ∧ (wk = .setp → validPrecision wa = true)) ∨ p = .waitsafe))
    ∨ ((∀ width w, host ≠ some (.write 0 width w)) ∧ s1 = busyHost host (beginCycle s)) := by
  rcases hostStep_idle host (beginCycle s) with ⟨width, w, hh, hw⟩ | ⟨hw, hn⟩
  · left; refine ⟨⟨width, w, hh⟩, ?_⟩
    obtain ⟨q, b, p, wm, wk, wa, e, he, hc⟩ := writeCommand_idle w (beginCycle s) hi
    rw [hw, he] at h; cases h
    exact ⟨q, b, p, wm, wk, wa, e, rfl, hc⟩
  · right; rw [hw] at h; cases h; exact ⟨hn, rfl⟩

@[simp] theorem busyHost_responseAdmitted (s : State) (host : Option HostAccess) (r : Option Response) :
    responseAdmitted (busyHost host (beginCycle s)) r = responseAdmitted s r := by
  rw [busyHost_eq]; cases r <;> rfl

/-- A cycle that starts busy, its inputs within their contracts, as one equation. -/
theorem step_busy {s : State} {host : Option HostAccess} {tick : Bool} {rsp : Option Response}
    (h : Given s host tick rsp) (ha : responseAdmitted s rsp = true) (hb : s.phase ≠ .idle) :
    step s = .next (cooldownTick tick (fsmNext tick rsp (busyHost host (beginCycle s)))) := by
  obtain ⟨h1, h2, h3⟩ := h
  refine step_eq_next.2 ⟨h1, .inr ⟨by rw [h3], by rw [h3]; exact h2, by rw [h3]; exact ha, ?_⟩⟩
  rw [h3, runParts_busy_eq _ _ (show (beginCycle s).phase ≠ .idle from hb)]

/-! ### What an arm does -/

/-- The arm of a delay phase is `waitDelay` (spec/41_measurement.md R112). -/
theorem fsmNext_delay {s : State} {next : Phase} (h : delayExit s.phase = some next) (tick : Bool)
    (rsp : Option Response) : fsmNext tick rsp s = waitDelay next tick s := by
  unfold fsmNext
  cases hp : s.phase <;> rw [hp] at h <;> cases h <;> rfl

/-- The end of the temperature measurement of GET_DATA goes on in the humidity trigger, the port as it was (R118). -/
theorem endMeasurement_thenH {s : State} (h : s.thenH = true) :
    endMeasurement .t s = { s with qCur := .h, thenH := false, phase := .trig } := by
  simp [endMeasurement, h]

/-- What an arm that leads from `s` to `v` does to the port: nothing, one transaction started, or one response consumed
(spec/41_measurement.md R110). -/
abbrev PortCases (rsp : Option Response) (s v : State) : Prop :=
  (v.history = s.history ∧ v.issue = s.issue ∧ v.pend = s.pend)
    ∨ (∃ x, s.pend = false ∧ v = startTxn x s ∧ ((s.phase = .read ∧ x = .busRead s.cfg.devAddr 3)
        ∨ ∃ b, phaseFrame s = some b ∧ x = .busWrite s.cfg.devAddr b))
    ∨ (∃ r, s.pend = true ∧ rsp = some r ∧ v.history = .consumed r :: s.history ∧ v.issue = s.issue ∧ v.pend = false
        ∧ outstandingKind s.phase = some (responseKind r))

/-- An update that leaves the port alone. -/
abbrev PortSame (s v : State) : Prop := v.history = s.history ∧ v.issue = s.issue ∧ v.pend = s.pend

theorem finishOk_port (q : Quantity) (n : Word) (u : State) : PortSame u (finishOk q n u) := by
  unfold finishOk; rw [endMeasurement_eq]; cases q <;> exact ⟨rfl, rfl, rfl⟩

theorem finishFail_port (q : Quantity) (e : ErrCode) (u : State) : PortSame u (finishFail q e u) := by
  unfold finishFail; rw [endMeasurement_eq]; cases q <;> exact ⟨rfl, rfl, rfl⟩

theorem onRead_port (r : Response) (u : State) : PortSame u (onRead r u) := by
  cases r <;> simp only [onRead, enterDelay_eq]
  · exact ⟨rfl, rfl, rfl⟩
  · exact ⟨rfl, rfl, rfl⟩
  · exact finishOk_port _ _ _
  · split
    · exact finishFail_port _ _ _
    · split
      · exact finishFail_port _ _ _
      · exact ⟨rfl, rfl, rfl⟩

/-- A bus phase that writes: the cases of the port. -/
theorem busNext_port (rsp : Option Response) (s : State) (ha : responseAdmitted s rsp = true)
    (f : Response → State → State) (hk : outstandingKind s.phase = some .write) (hf : ∀ r u, PortSame u (f r u)) :
    PortCases rsp s (busNext (issueWrite ((phaseFrame s).getD []) s) f rsp s) := by
  rcases busNext_cases (issueWrite ((phaseFrame s).getD []) s) f rsp s with ⟨hp, e⟩ | ⟨_, _, e⟩ | ⟨hp, r, hr, e⟩ <;>
    rw [e]
  · obtain ⟨b, hb⟩ := phaseFrame_isSome_of_kind s hk
    exact .inr (.inl ⟨_, hp, by rw [hb]; exact issueWrite_of_free _ _ hp, .inr ⟨b, hb, rfl⟩⟩)
  · exact .inl ⟨rfl, rfl, rfl⟩
  · obtain ⟨h1, h2, h3⟩ := hf r (consume r s)
    rw [hr] at ha
    simp [responseAdmitted] at ha
    exact .inr (.inr ⟨r, hp, hr, h1, h2, h3, ha.2⟩)

/-- What the arm of the phase does to the port. -/
theorem fsmNext_port (tick : Bool) (rsp : Option Response) (s : State) (ha : responseAdmitted s rsp = true) :
    PortCases rsp s (fsmNext tick rsp s) := by
  have hb := busNext_port rsp s ha
  unfold fsmNext
  cases hph : s.phase <;> simp only
  · refine hb _ (by rw [hph]; rfl) fun r u => ?_
    cases r <;> simp only [onInitRst, enterDelay_eq] <;> exact ⟨rfl, rfl, rfl⟩
  · rw [waitDelay_eq]; exact .inl ⟨rfl, rfl, rfl⟩
  · refine hb _ (by rw [hph]; rfl) fun r u => ?_
    cases r <;> exact ⟨rfl, rfl, rfl⟩
  · exact .inl ⟨rfl, rfl, rfl⟩
  · refine hb _ (by rw [hph]; rfl) fun r u => ?_
    cases r <;> simp only [onTrig, enterDelay_eq]
    · split <;> exact ⟨rfl, rfl, rfl⟩
    · exact finishFail_port _ _ _
    · exact ⟨rfl, rfl, rfl⟩
    · exact ⟨rfl, rfl, rfl⟩
  · rw [waitDelay_eq]; exact .inl ⟨rfl, rfl, rfl⟩
  · rcases busNext_cases (startTxn (.busRead s.cfg.devAddr 3) s) onRead rsp s with
      ⟨hp, e⟩ | ⟨_, _, e⟩ | ⟨hp, r, hr, e⟩ <;> rw [e]
    · exact .inr (.inl ⟨_, hp, rfl, .inl ⟨hph, rfl⟩⟩)
    · exact .inl ⟨rfl, rfl, rfl⟩
    · obtain ⟨h1, h2, h3⟩ := onRead_port r (consume r s)
      rw [hr] at ha
      simp [responseAdmitted] at ha
      exact .inr (.inr ⟨r, hp, hr, h1, h2, h3, ha.2⟩)
  · rw [waitDelay_eq]; exact .inl ⟨rfl, rfl, rfl⟩
  · refine hb _ (by rw [hph]; rfl) fun r u => ?_
    cases r <;> simp only [onWrcmd]
    · split <;> exact ⟨rfl, rfl, rfl⟩
    all_goals exact ⟨rfl, rfl, rfl⟩
  · split <;> exact .inl ⟨rfl, rfl, rfl⟩

/-- What a successful end of a measurement writes of the data (R118, spec/42_cooldown.md R140). -/
theorem finishOk_data (q : Quantity) (n : Word) (s : State) :
    (finishOk q n s).prec = s.prec ∧ (finishOk q n s).cmdErr = s.cmdErr
      ∧ (finishOk q n s).t.err = s.t.err ∧ (finishOk q n s).h.err = s.h.err
      ∧ (finishOk q n s).chan q = { s.chan q with
          cache := n, valid := true, fresh := true, cnt := s.cfg.cooldownTicks
          safe := s.cfg.cooldownTicks == 0, armedNow := true }
      ∧ (∀ q', q' ≠ q → (finishOk q n s).chan q' = s.chan q') := by
  unfold finishOk; rw [endMeasurement_eq]
  cases q
  · exact ⟨rfl, rfl, rfl, rfl, rfl, by intro q' h; cases q' <;> first | rfl | exact absurd rfl h⟩
  · exact ⟨rfl, rfl, rfl, rfl, rfl, by intro q' h; cases q' <;> first | rfl | exact absurd rfl h⟩

/-- What a failed end of a measurement writes of the data (R118). -/
theorem finishFail_data (q : Quantity) (e : ErrCode) (s : State) :
    (finishFail q e s).prec = s.prec ∧ (finishFail q e s).cmdErr = s.cmdErr
      ∧ (finishFail q e s).chan q = { s.chan q with err := e }
      ∧ (∀ q', q' ≠ q → (finishFail q e s).chan q' = s.chan q') := by
  unfold finishFail; rw [endMeasurement_eq]
  cases q
  · exact ⟨rfl, rfl, rfl, by intro q' h; cases q' <;> first | rfl | exact absurd rfl h⟩
  · exact ⟨rfl, rfl, rfl, by intro q' h; cases q' <;> first | rfl | exact absurd rfl h⟩

/-- What an arm does to the data: nothing, a sample stored, an error recorded, a precision code or a configuration error
written (spec/41_measurement.md R113, R115, R116; spec/43_commands.md R167; spec/70_reset_and_hazards.md R222, R223). -/
theorem fsmNext_data (tick : Bool) (rsp : Option Response) (s : State) :
    let v := fsmNext tick rsp s
    (v.t = s.t ∧ v.h = s.h ∧ v.prec = s.prec ∧ v.cmdErr = s.cmdErr)
      ∨ (∃ b0 b1 b2, s.phase = .read ∧ s.pend = true ∧ rsp = some (.rAck b0 b1 b2)
          ∧ v = finishOk s.qCur (decodeSample s.qCur b0 b1) (consume (.rAck b0 b1 b2) s))
      ∨ (∃ r e, (r = .wNack ∨ r = .rNack) ∧ s.phase.measuring = true ∧ s.pend = true ∧ rsp = some r
          ∧ v = finishFail s.qCur e (consume r s))
      ∨ (s.pend = true ∧ rsp = some .wAck ∧ v.t = s.t ∧ v.h = s.h ∧ v.cmdErr = s.cmdErr
          ∧ ((s.phase = .initPrec ∧ v.prec = s.cfg.initPrecision)
            ∨ (s.phase = .wrcmd ∧ s.wkind = .setp ∧ v.prec = s.warg)))
      ∨ (s.pend = true ∧ rsp = some .wNack ∧ v.t = s.t ∧ v.h = s.h ∧ v.prec = s.prec ∧ v.cmdErr = .busError
          ∧ (s.phase = .initRst ∨ s.phase = .initPrec ∨ s.phase = .wrcmd)) := by
  have iw : ∀ b, (issueWrite b s).t = s.t ∧ (issueWrite b s).h = s.h ∧ (issueWrite b s).prec = s.prec
      ∧ (issueWrite b s).cmdErr = s.cmdErr := by
    intro b; unfold issueWrite; split <;> exact ⟨rfl, rfl, rfl, rfl⟩
  intro v
  have hv : v = fsmNext tick rsp s := rfl
  unfold fsmNext at hv
  cases hph : s.phase <;> simp only [hph] at hv
  · rcases busNext_cases (issueWrite ((phaseFrame s).getD []) s) onInitRst rsp s with
      ⟨hp, e⟩ | ⟨_, _, e⟩ | ⟨hp, r, hr, e⟩ <;> rw [e] at hv <;> rw [hv]
    · exact .inl (iw _)
    · exact .inl ⟨rfl, rfl, rfl, rfl⟩
    · cases r <;> simp only [onInitRst, enterDelay_eq]
      · exact .inl ⟨rfl, rfl, rfl, rfl⟩
      · right; right; right; right; exact ⟨hp, hr, rfl, rfl, rfl, by trivial, .inl (by trivial)⟩
      · exact .inl ⟨rfl, rfl, rfl, rfl⟩
      · exact .inl ⟨rfl, rfl, rfl, rfl⟩
  · rw [hv, waitDelay_eq]; exact .inl ⟨rfl, rfl, rfl, rfl⟩
  · rcases busNext_cases (issueWrite ((phaseFrame s).getD []) s) onInitPrec rsp s with
      ⟨hp, e⟩ | ⟨_, _, e⟩ | ⟨hp, r, hr, e⟩ <;> rw [e] at hv <;> rw [hv]
    · exact .inl (iw _)
    · exact .inl ⟨rfl, rfl, rfl, rfl⟩
    · cases r <;> simp only [onInitPrec]
      · right; right; right; left; exact ⟨hp, hr, rfl, rfl, rfl, .inl ⟨by trivial, rfl⟩⟩
      · right; right; right; right; exact ⟨hp, hr, rfl, rfl, rfl, by trivial, .inr (.inl (by trivial))⟩
      · exact .inl ⟨rfl, rfl, rfl, rfl⟩
      · exact .inl ⟨rfl, rfl, rfl, rfl⟩
  · rw [hv]; exact .inl ⟨rfl, rfl, rfl, rfl⟩
  · rcases busNext_cases (issueWrite ((phaseFrame s).getD []) s) onTrig rsp s with
      ⟨hp, e⟩ | ⟨_, _, e⟩ | ⟨hp, r, hr, e⟩ <;> rw [e] at hv <;> rw [hv]
    · exact .inl (iw _)
    · exact .inl ⟨rfl, rfl, rfl, rfl⟩
    · cases r <;> simp only [onTrig, enterDelay_eq]
      · left; split <;> exact ⟨rfl, rfl, rfl, rfl⟩
      · right; right; left; exact ⟨.wNack, _, .inl rfl, by trivial, hp, hr, rfl⟩
      · exact .inl ⟨rfl, rfl, rfl, rfl⟩
      · exact .inl ⟨rfl, rfl, rfl, rfl⟩
  · rw [hv, waitDelay_eq]; exact .inl ⟨rfl, rfl, rfl, rfl⟩
  · rcases busNext_cases (startTxn (.busRead s.cfg.devAddr 3) s) onRead rsp s with
      ⟨hp, e⟩ | ⟨_, _, e⟩ | ⟨hp, r, hr, e⟩ <;> rw [e] at hv <;> rw [hv]
    · exact .inl ⟨rfl, rfl, rfl, rfl⟩
    · exact .inl ⟨rfl, rfl, rfl, rfl⟩
    · cases r <;> simp only [onRead, enterDelay_eq]
      · exact .inl ⟨rfl, rfl, rfl, rfl⟩
      · exact .inl ⟨rfl, rfl, rfl, rfl⟩
      · right; left; exact ⟨_, _, _, by trivial, hp, hr, rfl⟩
      · split
        · right; right; left; exact ⟨.rNack, _, .inr rfl, by trivial, hp, hr, rfl⟩
        · split
          · right; right; left; exact ⟨.rNack, _, .inr rfl, by trivial, hp, hr, rfl⟩
          · exact .inl ⟨rfl, rfl, rfl, rfl⟩
  · rw [hv, waitDelay_eq]; exact .inl ⟨rfl, rfl, rfl, rfl⟩
  · rcases busNext_cases (issueWrite ((phaseFrame s).getD []) s) onWrcmd rsp s with
      ⟨hp, e⟩ | ⟨_, _, e⟩ | ⟨hp, r, hr, e⟩ <;> rw [e] at hv <;> rw [hv]
    · exact .inl (iw _)
    · exact .inl ⟨rfl, rfl, rfl, rfl⟩
    · cases r <;> simp only [onWrcmd]
      · split
        · rename_i hk; right; right; right; left; exact ⟨hp, hr, rfl, rfl, rfl, .inr ⟨by trivial, hk, rfl⟩⟩
        · exact .inl ⟨rfl, rfl, rfl, rfl⟩
      · right; right; right; right; exact ⟨hp, hr, rfl, rfl, rfl, by trivial, .inr (.inr (by trivial))⟩
      · exact .inl ⟨rfl, rfl, rfl, rfl⟩
      · exact .inl ⟨rfl, rfl, rfl, rfl⟩
  · rw [hv]; split <;> exact .inl ⟨rfl, rfl, rfl, rfl⟩

end Sys2Proof.Machine
end

