-- ==== Sys2Proof/Laws/PerInstr.lean ====
section
/-! SUPPORT. What holds of every instruction as syntax: the shape of its encoding. -/

namespace Sys2Proof.Laws

/-- A word that is legal by the formula of spec/30_encoding.md R88, or a frame of the shape R82 gives whose first byte is
one of R84's seven. -/
def shapeOk : Encoded → Bool
  | .command w => Machine.legal w
  | .frame [b] => [0xE3#8, 0xE5#8, 0xF3#8, 0xF5#8, 0xE7#8, 0xFE#8].contains b
  | .frame [b, _] => b == 0xE6#8
  | .frame _ => false

/-- The encoding of an instruction has that shape. -/
def EncodingShape.Statement (i : Instr) : Prop := shapeOk (encode i) = true

theorem EncodingShape.getT : EncodingShape.Statement .getT := rfl
theorem EncodingShape.getH : EncodingShape.Statement .getH := rfl
theorem EncodingShape.getData : EncodingShape.Statement .getData := rfl

/-- Any of the 256 operands gives a legal word (R87). -/
theorem EncodingShape.setPrecision (p : Byte) : EncodingShape.Statement (.setPrecision p) := by
  have h : ∀ p : Byte, Machine.legal (0x0000#16 ++ p ++ 0x04#8) = true := by decide
  exact h p

theorem EncodingShape.softReset : EncodingShape.Statement .softReset := rfl

/-- Each of the four masks gives a legal word (R87). -/
theorem EncodingShape.waitSafe (m : BitVec 2) : EncodingShape.Statement (.waitSafe m) := by
  have h : ∀ m : BitVec 2, Machine.legal (0x0000#16 ++ 0b000000#6 ++ m ++ 0x06#8) = true := by decide
  exact h m

theorem EncodingShape.sensorTrigTHold : EncodingShape.Statement .sensorTrigTHold := rfl
theorem EncodingShape.sensorTrigHHold : EncodingShape.Statement .sensorTrigHHold := rfl
theorem EncodingShape.sensorTrigTNohold : EncodingShape.Statement .sensorTrigTNohold := rfl
theorem EncodingShape.sensorTrigHNohold : EncodingShape.Statement .sensorTrigHNohold := rfl
theorem EncodingShape.sensorWriteUserreg (code : Byte) : EncodingShape.Statement (.sensorWriteUserreg code) := rfl
theorem EncodingShape.sensorReadUserreg : EncodingShape.Statement .sensorReadUserreg := rfl
theorem EncodingShape.sensorSoftReset : EncodingShape.Statement .sensorSoftReset := rfl

end Sys2Proof.Laws
end

