-- ==== Sys2Proof/Tests/Slice0.lean ====
section
/-! SUPPORT. The model's own tests (expected values from spec/95_test_vectors.md, whose section each names) and, for every
statement with hypotheses, a concrete case that meets them. -/

namespace Sys2Proof.Tests

open Sys2Proof.Machine

/-! ### Small states and inputs -/

/-- Initialisation finished, nothing measured, default parameters. -/
def idle : State := { State.reset with phase := .idle }

/-- The state `s`, with the inputs of its next cycle. -/
def given (s : State) (host : Option HostAccess) (tick : Bool) (rsp : Option Response) : State :=
  { s with script := [{ rst := false, tick := tick, host := host, rsp := rsp }] }

/-- The state `s`, with `rst` and everything else asserted in its next cycle. -/
def inReset (s : State) : State :=
  { s with script := [{ rst := true, tick := true, host := some (storeCommand 0x1), rsp := some .wAck }] }

/-- A timer that cools, with `n` ticks to count. -/
def cooling (n : BitVec 32) : Channel := { Channel.reset with safe := false, cnt := n }

/-- A bus phase with its transaction outstanding. -/
def outstanding (p : Phase) : State := { State.reset with phase := p, pend := true }

/-- The next state, where there is one. -/
def nextOf (r : Result) : Option State :=
  match r with
  | .next s => some s
  | .fault _ => none
  | .refused _ => none

/-- One step on `s`, and a view of the state after it. -/
def after {α : Type} (s : State) (view : State → α) : Option α := (nextOf (step s)).map view

/-! ### Well-formedness, decoding, the codec -/

/-- R101: USERREG is never applied to a code that is no precision code. -/
theorem test_wf_refuses_bad_userreg : (Instr.sensorWriteUserreg 0x02).wf = false := by decide

/-- R6 and R7: each check of the parameters refuses. -/
theorem test_params_refused :
    paramsAdmitted { Params.defaults with cdW := 9 } = false
      ∧ paramsAdmitted { Params.defaults with cdW := 33 } = false
      ∧ paramsAdmitted { Params.defaults with cdW := 0, cooldownTicks := 0 } = false
      ∧ paramsAdmitted { Params.defaults with pollMaxT := 0 } = false
      ∧ paramsAdmitted { Params.defaults with pollMaxH := 0 } = false
      ∧ paramsAdmitted { Params.defaults with initPrecision := 0x02 } = false
      ∧ paramsAdmitted { Params.defaults with tickPeriodUs := 0 } = false
      ∧ paramsAdmitted Params.defaults = true := by decide

/-- 95 section 2.3, the words that are no command. -/
theorem test_decode_illegal :
    decode (.command 0x00010004) = .reject .reservedBits ∧ decode (.command 0x00000014) = .reject .reservedBits
      ∧ decode (.command 0x00100204) = .reject .reservedBits ∧ decode (.command 0x00000105) = .reject .nonzeroArg
      ∧ decode (.command 0x0000FC06) = .reject .nonzeroArg ∧ decode (.command 0x00000008) = .reject .unknownOpcode
      ∧ decode (.command 0x0000000F) = .reject .unknownOpcode := by decide

/-- 95 section 2.3, words with an operand. -/
theorem test_decode_operands :
    decode (.command 0x00000004) = .ok (.setPrecision 0x00) ∧ decode (.command 0x00000104) = .ok (.setPrecision 0x01)
      ∧ decode (.command 0x00000204) = .ok (.setPrecision 0x02) ∧ decode (.command 0x00000006) = .ok (.waitSafe 0)
      ∧ decode (.command 0x00000206) = .ok (.waitSafe 0b10) := by decide

/-- spec/opcode_table.json numbers a sensor frame from bit 0 of its first byte; the operand byte of a row of 8 bits is 0. -/
theorem test_decode_table_words :
    decodeTableWord 32 0x00008104 = some (.setPrecision 0x81) ∧ decodeTableWord 8 0xE3 = some .sensorTrigTHold
      ∧ decodeTableWord 8 0xE6 = some (.sensorWriteUserreg 0x00)
      ∧ decodeTableWord 16 0x81E6 = some (.sensorWriteUserreg 0x81)
      ∧ decodeTableWord 8 0xE7 = some .sensorReadUserreg ∧ decodeTableWord 32 0x00000007 = none := by decide

/-- 95 section 2.1, rows 0x4E85, 0x68AC, 0xFFFF and 0x0003, temperature. -/
theorem test_decode_temperature :
    decodeSample .t 0x4E 0x85 = 0x02C05C90 ∧ decodeSample .t 0x68 0xAC = 0x09C3BE30
      ∧ decodeSample .t 0xFF 0xFF = 0x3255ED70 ∧ decodeSample .t 0x00 0x03 = 0xEDB30000 := by decide

/-- 95 section 2.1, rows 0x72B0, 0xA000, 0x0C48 and 0xFFFC, humidity. -/
theorem test_decode_humidity :
    decodeSample .h 0x72 0xB0 = 0x1387F9C0 ∧ decodeSample .h 0xA0 0x00 = 0x1C2C8000
      ∧ decodeSample .h 0x0C 0x48 = 0xFFFFABA0 ∧ decodeSample .h 0xFF 0xFC = 0x2E7B3CB0 := by decide

/-- 95 section 2.2. -/
theorem test_precision_codes :
    validPrecision 0x81 = true ∧ validPrecision 0x02 = false ∧ validPrecision 0x7F = false
      ∧ validPrecision 0x82 = false ∧ precisionPairing 0x80 = some (10, 13) := by decide

/-! ### One step of each instruction, placed where the next step runs it -/

/-- 95 P4 cycle 29: GET_T with the timer SAFE starts the measurement. -/
theorem test_getT_starts :
    after (State.reset.withFetchWord 32 0x1) (fun t => (t.phase, t.qCur, t.thenH)) = some (.trig, .t, false) := by decide
/-- 43 R162: GET_T while the timer cools does not measure, and clears FRESH. -/
theorem test_getT_cooling :
    after ({ State.reset with t := { cooling 5 with fresh := true } }.withFetchWord 32 0x1)
      (fun t => (t.phase, t.t.fresh, t.t.cnt)) = some (.idle, false, 5) := by decide
/-- 95 P2 cycle 43: GET_H with H cooling is complete at once. -/
theorem test_getH_cooling :
    after ({ State.reset with h := cooling 3 }.withFetchWord 32 0x2) (fun t => t.phase) = some .idle := by decide
/-- 95 P4 cycle 12. -/
theorem test_getH_starts :
    after (State.reset.withFetchWord 32 0x2) (fun t => (t.phase, t.qCur)) = some (.trig, .h) := by decide
/-- 95 P5 cycle 12: temperature first, humidity to follow. -/
theorem test_getData_starts :
    after (State.reset.withFetchWord 32 0x3) (fun t => (t.phase, t.qCur, t.thenH)) = some (.trig, .t, true) := by decide
/-- 95 P2 cycle 45: T safe, H cooling: nothing starts. -/
theorem test_getData_one_cooling :
    after ({ State.reset with h := cooling 1 }.withFetchWord 32 0x3) (fun t => t.phase) = some .idle := by decide
/-- 95 P3 cycle 14. -/
theorem test_setPrecision_valid :
    after (State.reset.withFetchWord 32 0x8104) (fun t => (t.phase, t.warg, t.prec)) = some (.wrcmd, 0x81, 0x00) := by
  decide
/-- 95 P3 cycles 12 and 13: STATUS reads 0x00030006. -/
theorem test_setPrecision_invalid :
    after (State.reset.withFetchWord 32 0x204) (fun t => regRead t 0x04) = some 0x00030006 := by decide
/-- 95 P3 cycle 28. -/
theorem test_softReset_starts :
    after (State.reset.withFetchWord 32 0x5) (fun t => (t.phase, t.wkind)) = some (.wrcmd, .srst) := by decide
/-- 95 P2 cycle 47. -/
theorem test_waitSafe_starts :
    after (State.reset.withFetchWord 32 0x306) (fun t => (t.phase, t.wmask)) = some (.waitsafe, 0b11) := by decide
/-- 95 P3 cycle 22: any command while busy sets OVR and is dropped. -/
theorem test_command_while_busy :
    after (given (outstanding .wrcmd) (some (storeCommand 0x1)) false none) (fun t => (t.phase, t.ovr))
      = some (.wrcmd, true) := by decide
/-- 95 P3 cycles 19 and 20: STATUS reads 0x00040006. -/
theorem test_illegal_word :
    after (given idle (some (storeCommand 0x101)) false none) (fun t => regRead t 0x04) = some 0x00040006 := by decide
/-- 95 P2 cycle 13. -/
theorem test_trig_t_hold :
    after (State.reset.withFetchWord 8 0xE3) (fun t => t.issue) = some (some (.busWrite 0x40 [0xE3])) := by decide
/-- 95 P2 cycle 27. -/
theorem test_trig_h_hold :
    after (State.reset.withFetchWord 8 0xE5) (fun t => t.issue) = some (some (.busWrite 0x40 [0xE5])) := by decide
/-- 95 P4 cycle 30. -/
theorem test_trig_t_nohold :
    after (State.reset.withFetchWord 8 0xF3) (fun t => t.issue) = some (some (.busWrite 0x40 [0xF3])) := by decide
/-- 95 P4 cycle 13. -/
theorem test_trig_h_nohold :
    after (State.reset.withFetchWord 8 0xF5) (fun t => t.issue) = some (some (.busWrite 0x40 [0xF5])) := by decide
/-- 95 P3 cycle 15. -/
theorem test_write_userreg :
    after (State.reset.withFetchWord 16 0x81E6) (fun t => t.issue) = some (some (.busWrite 0x40 [0xE6, 0x81])) := by
  decide
/-- 95 P1: the first transaction after reset. -/
theorem test_soft_reset_frame :
    after (given State.reset none false none) (fun t => (t.phase, t.issue, t.pend))
      = some (.initRst, some (.busWrite 0x40 [0xFE]), true) := by decide
/-- 30 R89. -/
theorem test_read_userreg_stops : exec .sensorReadUserreg State.reset = .refused .neverIssued := rfl

/-! ### The engine -/

/-- 95 section 2.5: a read not acknowledged in hold mode is a BUS_ERROR. -/
theorem test_hold_read_nack :
    after (given { outstanding .read with mode := true, qCur := .h } none false (some .rNack))
      (fun t => (t.phase, t.h.err, t.h.safe)) = some (.idle, .busError, true) := by decide
/-- 95 section 2.5: the fourth RNack of H, with POLL_MAX_H = 4, is a TIMEOUT. -/
theorem test_poll_timeout :
    after (given { outstanding .read with nacks := 3, qCur := .h } none false (some .rNack))
      (fun t => (t.phase, t.h.err)) = some (.idle, .timeout) := by decide
/-- 95 section 2.5: the third is not; the tick of the same cycle is not counted. -/
theorem test_poll_retry :
    after (given { outstanding .read with nacks := 2, qCur := .h } none true (some .rNack))
      (fun t => (t.phase, t.nacks, t.dcnt)) = some (.gap, 3, 10) := by decide
/-- 95 section 2.5: Finish(T, Ok), then_h = 1. -/
theorem test_finish_then_h :
    after (given { outstanding .read with thenH := true } none false (some (.rAck 0x68 0xAC 0x00)))
      (fun t => (t.phase, t.qCur, t.thenH, t.t.cache)) = some (.trig, .h, false, 0x09C3BE30) := by decide
/-- 95 section 2.6: Arm(T) and a tick in one cycle while H cools with 5. -/
theorem test_arm_beats_tick :
    after (given { outstanding .read with h := cooling 5 } none true (some (.rAck 0x60 0x00 0x00)))
      (fun t => (t.t.safe, t.t.cnt, t.h.cnt)) = some (false, 1000, 4) := by decide
/-- 95 section 2.4: after initialisation with the soft reset WNack, STATUS reads 0x00010006. -/
theorem test_init_nack :
    after (given { outstanding .initPrec with cmdErr := .busError } none false (some .wAck))
      (fun t => (regRead t 0x04, regRead t 0x0C)) = some (0x00010006, 0x00) := by decide
/-- 95 section 2.4: CTRL keeps bit 0 only; a write to TEMP is ignored. -/
theorem test_register_writes :
    after (given idle (some (.write 0x08 .word 0xFFFFFFFF)) false none) (fun t => regRead t 0x08) = some 1
      ∧ after (given idle (some (.write 0x10 .word 0x12345678)) false none) (fun t => regRead t 0x10)
        = some 0x80000000 := by decide
/-- 95 section 2.4: bit 7 of STATUS clears OVR, the other bits do not. -/
theorem test_status_writes :
    after (given { idle with ovr := true } (some clrOvr) false none) (fun t => t.ovr) = some false
      ∧ after (given { idle with ovr := true } (some (.write 0x04 .word 0x7F)) false none) (fun t => t.ovr)
        = some true := by decide
/-- 95 section 2.4: the reads right after reset, taken from the start of the cycle. -/
theorem test_status_read_at_reset :
    after (given State.reset (some loadStatus) false none) (fun t => t.rdata) = some (some 0x00000007) := by decide

/-! ### Witnesses: each statement's hypotheses are met, clause by clause -/

theorem witness_DecodeAndEncodeAgree :
    (Instr.sensorWriteUserreg 0x00).wf = true ∧ (Instr.sensorWriteUserreg 0x81).wf = true
      ∧ (Instr.setPrecision 0xFF).wf = true ∧ (Instr.waitSafe 0b11).wf = true := by decide

theorem witness_DecodeAndEncodeAgree_words :
    decode (.command 0x0000FF04) = .ok (.setPrecision 0xFF) ∧ decode (.frame [0xE6, 0xFF]) = .ok (.sensorWriteUserreg 0xFF)
      ∧ decode (.frame [0xE3]) = .ok .sensorTrigTHold := by decide

/-- Bytes that differ in the status bits only; a cycle that runs, one without a move, one refused. -/
theorem witness_ChecksumAndStatusBitsIgnored :
    (0xAC : Byte) >>> 2 = (0xAF : Byte) >>> 2
      ∧ (∃ t, step (given (outstanding .read) none false (some (.rAck 0x68 0xAC 0x00))) = .next t)
      ∧ step (given idle none false (some (.rAck 0x68 0xAC 0x00))) = .fault .noMove
      ∧ step (given (outstanding .read) (some (.read 0x20 .word)) false (some (.rAck 0x68 0xAC 0x00)))
        = .refused .hostAccess := ⟨by decide, ⟨_, rfl⟩, rfl, rfl⟩

theorem witness_ResetOverridesEverything :
    paramsAdmitted (inReset (outstanding .read)).cfg = true ∧ (cycleInput (inReset (outstanding .read))).rst = true := by
  decide

/-- A byte access, a misaligned offset, the first offset past the window, read and written. -/
theorem witness_AccessOutsideContractRefused :
    paramsAdmitted idle.cfg = true
      ∧ (cycleInput (given idle (some (.read 0x04 .byte)) false none)).rst = false
      ∧ (cycleInput (given idle (some (.read 0x04 .byte)) false none)).host = some (.read 0x04 .byte)
      ∧ AccessWidth.byte ≠ .word ∧ 0x02 % 4 ≠ 0 ∧ 0x20 ≤ 0x20
      ∧ (cycleInput (given idle (some (.write 0x20 .word 1)) false none)).host = some (.write 0x20 .word 1)
      ∧ (cycleInput (given idle (some (.write 0x02 .word 1)) false none)).rst = false := by decide

/-- A response with none outstanding, and a read's answer to a write. -/
theorem witness_ResponseOutsideContractHasNoMove :
    paramsAdmitted idle.cfg = true ∧ hostAdmitted none = true
      ∧ (cycleInput (given idle none false (some .wAck))).rst = false
      ∧ (cycleInput (given idle none false (some .wAck))).rsp = some .wAck ∧ idle.pend = false
      ∧ (outstanding .trig).pend = true ∧ outstandingKind (outstanding .trig).phase ≠ some (responseKind .rNack) := by
  decide

/-- Each of the violations, at the first value that violates. -/
theorem witness_BadParametersRefused :
    2 ^ ({ Params.defaults with cdW := 10, cooldownTicks := 1024 } : Params).cdW
        ≤ ({ Params.defaults with cdW := 10, cooldownTicks := 1024 } : Params).cooldownTicks.toNat
      ∧ ({ Params.defaults with pollMaxT := 0 } : Params).pollMaxT = 0
      ∧ ({ Params.defaults with pollMaxH := 0 } : Params).pollMaxH = 0
      ∧ ¬((0x02 : Byte) = 0x00 ∨ (0x02 : Byte) = 0x01 ∨ (0x02 : Byte) = 0x80 ∨ (0x02 : Byte) = 0x81)
      ∧ ({ Params.defaults with cdW := 0, cooldownTicks := 0 } : Params).cdW = 0
      ∧ 32 < ({ Params.defaults with cdW := 33 } : Params).cdW
      ∧ ({ Params.defaults with tickPeriodUs := 0 } : Params).tickPeriodUs = 0 := by decide

theorem witness_AdmittedInputsStep :
    paramsAdmitted idle.cfg = true ∧ (cycleInput (inReset idle)).rst = true
      ∧ hostAdmitted (cycleInput (given (outstanding .trig) none true (some .wNack))).host = true
      ∧ responseAdmitted (outstanding .trig) (cycleInput (given (outstanding .trig) none true (some .wNack))).rsp = true
      ∧ idle.script = [] := by decide

/-- A command in IDLE; a command dropped in a cycle that consumes a response; a word that does not decode, in both. -/
theorem witness_StepRunsWrittenCommand :
    let busy (w : Word) : State := given (outstanding .trig) (some (storeCommand w)) true (some .wAck)
    Given (given idle (some (storeCommand 0x306)) true none) (some (storeCommand 0x306)) true none
      ∧ responseAdmitted (given idle (some (storeCommand 0x306)) true none) none = true
      ∧ decode (.command 0x306) = .ok (.waitSafe 0b11)
      ∧ Given (busy 0x1) (some (storeCommand 0x1)) true (some .wAck) ∧ responseAdmitted (busy 0x1) (some .wAck) = true
      ∧ decode (.command 0x101) = .reject .nonzeroArg ∧ idle.phase = .idle ∧ (busy 0x101).phase ≠ .idle
      ∧ Given (given idle (some (storeCommand 0x101)) true none) (some (storeCommand 0x101)) true none
      ∧ Given (busy 0x101) (some (storeCommand 0x101)) true (some .wAck) := by decide

theorem witness_StepRunsIssuedFrame :
    Given (given { State.reset with phase := .trig } (some loadStatus) true none) (some loadStatus) true none
      ∧ (given { State.reset with phase := .trig } (some loadStatus) true none).pend = false
      ∧ phaseFrame { State.reset with phase := .trig } = some [0xF3]
      ∧ decode (.frame [0xF3]) = .ok .sensorTrigTNohold := by decide

/-- Every register, read in a cycle that runs. -/
theorem witness_RegReadReturnsAndChangesNothing :
    (∀ k : Fin 8, hostAdmitted (some (.read (4 * k.val) .word)) = true)
      ∧ (∃ t, step (given idle none true none) = .next t)
      ∧ ∃ t, step (given (outstanding .read) none true (some .rNack)) = .next t := ⟨by decide, ⟨_, rfl⟩, ⟨_, rfl⟩⟩

theorem witness_RegWriteEffects :
    ∀ k : Fin 8, hostAdmitted (some (.write (4 * k.val) .word 0xFFFFFFFF)) = true := by decide

/-- Illegal for its reserved bits, its opcode, its argument. -/
theorem witness_IllegalCommandRecorded :
    idle.phase = .idle ∧ legal 0x00010004 = false ∧ legal 0x00000007 = false ∧ legal 0x00000101 = false
      ∧ legal 0x00000406 = false ∧ legal 0x00000000 = false := by decide

theorem witness_BusyCommandsDropped : State.reset.phase ≠ .idle ∧ (outstanding .read).phase ≠ .idle := by decide

/-- Timers safe, and each of them cooling. -/
theorem witness_MeasurementCommandsInIdle :
    idle.phase = .idle ∧ idle.t.safe = true ∧ idle.h.safe = true
      ∧ ({ idle with t := cooling 0 } : State).t.safe = false ∧ ({ idle with h := cooling 0 } : State).h.safe = false := by
  decide

theorem witness_ConfigurationCommandsInIdle : idle.phase = .idle := by decide

theorem witness_FramesAreIssued : State.reset.pend = false := by decide

theorem witness_ReadUserregNeverIssued :
    phaseFrame State.reset = some [0xFE] ∧ phaseFrame { State.reset with phase := .initPrec } = some [0xE6, 0x00] := by
  decide

theorem witness_OnlyListedTransactionsIssued :
    (given State.reset none false none).Inv
      ∧ ∃ t, step (given State.reset none false none) = .next t ∧ t.issue = some (.busWrite 0x40 [0xFE]) :=
  ⟨by decide, _, rfl, rfl⟩

/-- A reset; then a step that records nothing, one that issues, one that consumes. -/
theorem witness_HistoryGrowsByOneEvent :
    (∃ t, step (inReset (outstanding .read)) = .next t) ∧ (cycleInput (inReset (outstanding .read))).rst = true
      ∧ (∃ t, step (given idle none false none) = .next t) ∧ (cycleInput (given idle none false none)).rst = false
      ∧ (∃ t, step (given State.reset none false none) = .next t)
      ∧ (cycleInput (given State.reset none false none)).rst = false
      ∧ (∃ t, step (given (outstanding .read) none false (some .rNack)) = .next t)
      ∧ (cycleInput (given (outstanding .read) none false (some .rNack))).rst = false :=
  ⟨⟨_, rfl⟩, rfl, ⟨_, rfl⟩, rfl, ⟨_, rfl⟩, rfl, ⟨_, rfl⟩, rfl⟩

/-- The six requests. -/
theorem witness_BusPhaseIssues :
    Given (given State.reset none true none) none true none ∧ (given State.reset none true none).pend = false
      ∧ State.reset.phase = .initRst ∧ ({ State.reset with phase := .initPrec } : State).phase = .initPrec
      ∧ Given (given { State.reset with phase := .trig } none true none) none true none
      ∧ Given (given { State.reset with phase := .wrcmd, wkind := .srst } none true none) none true none
      ∧ ({ State.reset with phase := .wrcmd } : State).wkind = .setp
      ∧ Given (given { State.reset with phase := .read } none true none) none true none := by decide

theorem witness_BusPhaseHolds :
    Given (given (outstanding .read) none true none) none true none ∧ (outstanding .read).pend = true
      ∧ (outstandingKind (outstanding .read).phase).isSome = true := by decide

/-- Hold with a delay, hold without one, no hold, no acknowledgement. -/
theorem witness_TriggerAnswered :
    let hold : State := { outstanding .trig with mode := true }
    let now : State := { hold with cfg := { Params.defaults with holdDelayT := 0 } }
    Given (given hold none true (some .wAck)) none true (some .wAck) ∧ hold.mode = true ∧ hold.cfg.holdDelay .t ≠ 0
      ∧ Given (given now none true (some .wAck)) none true (some .wAck) ∧ now.cfg.holdDelay .t = 0
      ∧ Given (given (outstanding .trig) none true (some .wNack)) none true (some .wNack)
      ∧ (outstanding .trig).mode = false ∧ (outstanding .trig).phase = .trig ∧ (outstanding .trig).pend = true := by
  decide

theorem witness_ReadAcknowledged :
    Given (given (outstanding .read) none true (some (.rAck 1 2 3))) none true (some (.rAck 1 2 3))
      ∧ (outstanding .read).phase = .read ∧ (outstanding .read).pend = true := by decide

/-- Hold; the last attempt (`nacks = 9` of `POLL_MAX_T = 10`); the one before it, with a gap and without one. -/
theorem witness_ReadNotAcknowledged :
    let s : State := outstanding .read
    let gapless : State := { s with nacks := 8, cfg := { Params.defaults with pollGap := 0 } }
    Given (given s none true (some .rNack)) none true (some .rNack) ∧ s.phase = .read ∧ s.pend = true
      ∧ ({ s with mode := true } : State).mode = true
      ∧ ({ s with nacks := 9 } : State).mode = false
      ∧ (s.cfg.pollMax .t).toNat ≤ ({ s with nacks := 9 } : State).nacks.toNat + 1
      ∧ ({ s with nacks := 8 } : State).nacks.toNat + 1 < (s.cfg.pollMax .t).toNat ∧ s.cfg.pollGap ≠ 0
      ∧ Given (given gapless none true (some .rNack)) none true (some .rNack)
      ∧ gapless.nacks.toNat + 1 < (gapless.cfg.pollMax .t).toNat ∧ gapless.cfg.pollGap = 0 := by decide

theorem witness_ConfigurationWriteAnswered :
    Given (given (outstanding .wrcmd) none true (some .wAck)) none true (some .wAck)
      ∧ Given (given (outstanding .wrcmd) none true (some .wNack)) none true (some .wNack)
      ∧ (outstanding .wrcmd).phase = .wrcmd ∧ (outstanding .wrcmd).pend = true := by decide

theorem witness_InitialisationAnswered :
    Given (given (outstanding .initRst) none true (some .wNack)) none true (some .wNack)
      ∧ (outstanding .initRst).phase = .initRst ∧ (outstanding .initRst).pend = true
      ∧ Given (given (outstanding .initPrec) none true (some .wAck)) none true (some .wAck)
      ∧ (outstanding .initPrec).phase = .initPrec := by decide

theorem witness_WaitSafeEndsWhenSelectedSafe :
    Given (given { State.reset with phase := .waitsafe } none true none) none true none
      ∧ (given { State.reset with phase := .waitsafe } none true none).pend = false := by decide

/-- One tick to count, in two cycles: the first clause; then the tick that leaves, in a third. -/
def delayed : State := { State.reset with phase := .delay, dcnt := 1, mode := true }

/-- The three delay phases, in a cycle without a tick and in ones that tick, counting and at the end of the wait, with a
host access and without. -/
theorem witness_DelayLastsItsTicks_cycle :
    Given (given delayed (some (setHold true)) false none) (some (setHold true)) false none
      ∧ Given (given delayed none true none) none true none ∧ delayed.dcnt ≠ 0
      ∧ Given (given { delayed with dcnt := 0 } none true none) none true none
      ∧ delayExit delayed.phase = some .read ∧ delayExit .gap = some .read ∧ delayExit .initSettle = some .initPrec := by
  decide

theorem witness_DelayLastsItsTicks :
    let l : List CycleInput := [quiet, { quiet with tick := true }]
    let l' : List CycleInput := l ++ [{ quiet with tick := true }]
    delayExit delayed.phase = some .read ∧ noReset l ∧ ticks l ≤ delayed.dcnt.toNat
      ∧ (∃ t, core.run l.length { delayed with script := l ++ [] } = .next t)
      ∧ noReset l' ∧ ticks l = delayed.dcnt.toNat
      ∧ ∃ t, core.run l'.length { delayed with script := l' ++ [] } = .next t :=
  ⟨by decide, by decide, by decide, ⟨_, rfl⟩, by decide, by decide, _, rfl⟩

theorem witness_MeasurementBudgetFalls :
    let s : State := given { State.reset with phase := .trig } none false none
    s.Inv ∧ s.phase.measuring = true ∧ (cycleInput s).rst = false
      ∧ ∃ t, step s = .next t ∧ t.phase.measuring = true := ⟨by decide, by decide, by decide, _, rfl, by decide⟩

/-- A cycle that goes on, with a host access, and one that ends the measurement. -/
theorem witness_NoCancellation :
    (outstanding .read).phase.measuring = true
      ∧ (∃ t, step (given (outstanding .read) (some (storeCommand 0x5)) true none) = .next t)
      ∧ ∃ t, step (given (outstanding .read) (some (setHold true)) true (some (.rAck 0 0 0))) = .next t
        ∧ t.phase = .idle := ⟨by decide, ⟨_, rfl⟩, _, rfl, by decide⟩

/-- Armed, SAFE, at the end of the window, inside it. -/
theorem witness_CooldownTickRule :
    ({ cooling 5 with armedNow := true } : Channel).armedNow = true ∧ Channel.reset.safe = true
      ∧ (cooling 0).armedNow = false ∧ (cooling 0).safe = false ∧ (cooling 0).cnt = 0 ∧ (cooling 1).cnt ≠ 0 := by decide

theorem witness_ArmBeatsTick :
    let s : State := given { outstanding .read with h := cooling 5 } none true (some (.rAck 0x60 0x00 0x00))
    Given s none true (some (.rAck 0x60 0x00 0x00)) ∧ s.phase = .read ∧ s.pend = true ∧ Quantity.h ≠ s.qCur := by decide

/-- A window with one tick left, as in 95 section 2.6. -/
theorem witness_CooldownWindowLength :
    let s : State := { idle with t := cooling 1 }
    let l : List CycleInput := [{ quiet with tick := true }, quiet]
    let l' : List CycleInput := l ++ [{ quiet with tick := true }]
    ({ s with script := l ++ [] } : State).Inv ∧ (s.chan .t).safe = false ∧ noReset l ∧ ticks l ≤ (s.chan .t).cnt.toNat
      ∧ (∃ t, core.run l.length { s with script := l ++ [] } = .next t)
      ∧ noReset l' ∧ ticks l = (s.chan .t).cnt.toNat
      ∧ ∃ t, core.run l'.length { s with script := l' ++ [] } = .next t :=
  ⟨by decide, by decide, by decide, by decide, ⟨_, rfl⟩, by decide, by decide, _, rfl⟩

theorem witness_SafeEndsOnlyBySample :
    ∃ t, step (given (outstanding .read) none false (some (.rAck 0 0 0))) = .next t
      ∧ ((outstanding .read).chan .t).safe = true ∧ (t.chan .t).safe = false := ⟨_, rfl, by decide, by decide⟩

/-- A wait that ends, an IDLE cycle, GET_DATA; then its temperature measurement in a cycle that goes on and in two that end
it, with a sample and without one. -/
theorem witness_WaitSafeThenGetData :
    let s : State := given { State.reset with phase := .waitsafe, wmask := 0b11 } none false none
    s.phase = .waitsafe ∧ s.wmask = 0b11 ∧ (cycleInput s).rst = false ∧ (∃ t, step s = .next t ∧ t.phase = .idle)
      ∧ (∃ t, step (given idle none true none) = .next t ∧ (idle.chan .h).safe = true)
      ∧ idle.phase = .idle ∧ (cycleInput (given idle none true none)).rst = false
      ∧ idle.t.safe = true ∧ idle.h.safe = true :=
  ⟨by decide, by decide, by decide, ⟨_, rfl, by decide⟩, ⟨_, rfl, by decide⟩, by decide, by decide, by decide, by decide⟩

theorem witness_WaitSafeThenGetData_measurement :
    let s : State := { outstanding .read with thenH := true }
    s.phase.measuring = true ∧ s.qCur = .t ∧ s.thenH = true
      ∧ (∃ t, step (given s (some (setHold true)) true (some .rNack)) = .next t ∧ t.phase = .gap)
      ∧ (∃ t, step (given s none true (some (.rAck 0 0 0))) = .next t ∧ t.phase = .trig)
      ∧ ∃ t, step (given { s with nacks := 9 } none true (some .rNack)) = .next t ∧ t.phase = .trig :=
  ⟨by decide, by decide, by decide, ⟨_, rfl, by decide⟩, ⟨_, rfl, by decide⟩, _, rfl, by decide⟩

theorem witness_GetTSeesStartOfCycleTimer :
    let s : State := given { idle with t := cooling 0 } (some (storeCommand 0x00000001)) true none
    Given s (some (storeCommand 0x00000001)) true none ∧ s.phase = .idle ∧ s.pend = false ∧ s.t.safe = false
      ∧ s.t.cnt = 0 := by decide

/-- A cycle that stores a sample, and one that does not. -/
theorem witness_CacheChangesOnlyBySample :
    (∃ t, step (given (outstanding .read) none false (some (.rAck 0x68 0xAC 0))) = .next t)
      ∧ (cycleInput (given (outstanding .read) none false (some (.rAck 0x68 0xAC 0)))).rst = false
      ∧ ∃ t, step (given idle none false none) = .next t := ⟨⟨_, rfl⟩, rfl, _, rfl⟩

/-- No change; the initialisation's write; SET_PRECISION's. -/
theorem witness_PrecChangesOnlyByAcknowledgedWrite :
    (∃ t, step (given idle none false none) = .next t)
      ∧ (∃ t, step (given { outstanding .initPrec with prec := 0x81 } none false (some .wAck)) = .next t ∧ t.prec = 0x00)
      ∧ ∃ t, step (given { outstanding .wrcmd with warg := 0x81 } none false (some .wAck)) = .next t
        ∧ t.prec = 0x81 := ⟨⟨_, rfl⟩, ⟨_, rfl, by decide⟩, _, rfl, by decide⟩

/-- A reset, the three registers written, and no access. -/
theorem witness_OvrAndHoldWrittenOnlyByHost :
    (∃ t, step (inReset idle) = .next t) ∧ (∃ t, step (given State.reset (some (storeCommand 0x1)) false none) = .next t)
      ∧ (∃ t, step (given idle (some clrOvr) false none) = .next t)
      ∧ (∃ t, step (given idle (some (setHold true)) false none) = .next t)
      ∧ ∃ t, step (given idle (some (.write 0x0C .word 0)) false none) = .next t :=
  ⟨⟨_, rfl⟩, ⟨_, rfl⟩, ⟨_, rfl⟩, ⟨_, rfl⟩, _, rfl⟩

/-- The four cases: a command, nothing, a measurement that fails, a configuration write that fails. -/
theorem witness_ErrorsChangeOnlyWhereRecorded :
    (∃ t, step (given idle (some (storeCommand 0x0)) false none) = .next t ∧ t.cmdErr = .illegalCommand)
      ∧ (∃ t, step (given idle none false none) = .next t)
      ∧ (∃ t, step (given (outstanding .trig) none false (some .wNack)) = .next t ∧ t.t.err = .busError)
      ∧ ∃ t, step (given (outstanding .initRst) none false (some .wNack)) = .next t ∧ t.cmdErr = .busError :=
  ⟨⟨_, rfl, by decide⟩, ⟨_, rfl⟩, ⟨_, rfl, by decide⟩, _, rfl, by decide⟩

/-- In IDLE and while busy. -/
theorem witness_CommandFrame :
    encode (.waitSafe 0b01) = .command 0x106 ∧ (∃ t, exec (.waitSafe 0b01) idle = .next t) ∧ idle.phase = .idle
      ∧ ∃ t, exec (.waitSafe 0b01) State.reset = .next t := ⟨by decide, ⟨_, rfl⟩, by decide, _, rfl⟩

/-- With the port free and with a transaction outstanding. -/
theorem witness_SensorFrameFrame :
    encode (.sensorWriteUserreg 0x81) = .frame [0xE6, 0x81]
      ∧ (∃ t, exec (.sensorWriteUserreg 0x81) State.reset = .next t)
      ∧ (outstanding .trig).pend = true ∧ ∃ t, exec .sensorTrigTHold (outstanding .trig) = .next t :=
  ⟨by decide, ⟨_, rfl⟩, by decide, _, rfl⟩

/-- A timer that cools, with a read, with writes to STATUS, CTRL and a read-only register, and with no access; then both
timers SAFE. -/
theorem witness_IdleIsQuiescent :
    let s : State := { idle with t := cooling 5 }
    s.phase = .idle ∧ Given (given s (some loadStatus) true none) (some loadStatus) true none
      ∧ Given (given s (some clrOvr) true none) (some clrOvr) true none
      ∧ Given (given s (some (setHold true)) true none) (some (setHold true)) true none
      ∧ Given (given s (some (.write 0x1C .word 1)) true none) (some (.write 0x1C .word 1)) true none
      ∧ Given (given idle none true none) none true none ∧ idle.phase = .idle ∧ idle.t.safe = true
      ∧ idle.h.safe = true := by decide

theorem witness_IdleIsQuiescent_access (width : AccessWidth) (w : Word) :
    some loadStatus ≠ some (.write 0x00 width w) ∧ some clrOvr ≠ some (.write 0x00 width w)
      ∧ some (setHold true) ≠ some (.write 0x00 width w) ∧ some (HostAccess.write 0x1C .word 1) ≠ some (.write 0x00 width w)
      ∧ none ≠ some (HostAccess.write 0x00 width w) := by simp [loadStatus, clrOvr, setHold]

theorem witness_GetTNoHoldEndToEnd :
    let s : State := { idle with script :=
      [{ rst := false, tick := true, host := some (storeCommand 0x00000001), rsp := none },
        { rst := false, tick := true, host := none, rsp := none },
        { rst := false, tick := false, host := none, rsp := some .wAck },
        { rst := false, tick := true, host := none, rsp := none },
        { rst := false, tick := true, host := none, rsp := some (.rAck 0x68 0xAC 0x00) }] }
    s.Inv ∧ s.phase = .idle ∧ s.t.safe = true ∧ s.hold = false
      ∧ (∃ t, core.run 5 s = .next t ∧ t.t.cache = 0x09C3BE30) :=
  ⟨by decide, by decide, by decide, by decide, _, rfl, by decide⟩

/-- A window of three ticks, of which the second measurement counts two (one tick falls in the cycle of the arming); then a
window of one, which ends before the measurements do. -/
theorem witness_GetDataNoHoldEndToEnd :
    let s (window : Word) : State := { idle with
      cfg := { Params.defaults with cooldownTicks := window }
      script :=
        [{ rst := false, tick := true, host := some (storeCommand 0x00000003), rsp := none },
          { rst := false, tick := false, host := none, rsp := none },
          { rst := false, tick := true, host := none, rsp := some .wAck },
          { rst := false, tick := false, host := none, rsp := none },
          { rst := false, tick := true, host := none, rsp := some (.rAck 0x60 0x00 0x00) },
          { rst := false, tick := true, host := none, rsp := none },
          { rst := false, tick := false, host := none, rsp := some .wAck },
          { rst := false, tick := true, host := none, rsp := none },
          { rst := false, tick := false, host := none, rsp := some (.rAck 0xA0 0x00 0x00) }] }
    (s 3).Inv ∧ (s 3).phase = .idle ∧ (s 3).t.safe = true ∧ (s 3).h.safe = true ∧ (s 3).hold = false
      ∧ (∃ t, core.run 9 (s 3) = .next t ∧ t.t.cache = 0x07708000 ∧ t.h.cache = 0x1C2C8000 ∧ t.t.cnt = 1
        ∧ t.t.safe = false ∧ t.h.cnt = 3)
      ∧ (s 1).Inv ∧ ∃ t, core.run 9 (s 1) = .next t ∧ t.t.cnt = 0 ∧ t.t.safe = true ∧ t.h.safe = false :=
  ⟨by decide, by decide, by decide, by decide, by decide, ⟨_, rfl, by decide⟩, by decide, _, rfl, by decide⟩

theorem witness_InvariantAtReset : paramsAdmitted Params.defaults = true := by decide

theorem witness_InvariantKeptByStep :
    (given (outstanding .read) none true (some .rNack)).Inv
      ∧ ∃ t, step (given (outstanding .read) none true (some .rNack)) = .next t := ⟨by decide, _, rfl⟩

theorem witness_ReachableStatesHaveFacts :
    ∃ t, core.run 2 { State.reset with cfg := Params.defaults, script := [quiet, { quiet with rsp := some .wAck }] }
      = .next t ∧ t.phase = .initSettle := ⟨_, rfl, by decide⟩

theorem witness_ParametersNeverChange : ∃ t, step (given idle none true none) = .next t := ⟨_, rfl⟩

end Sys2Proof.Tests
end

section
/-! PROOFS. The parameters (spec/00_scope.md R6, R7): which configurations are admitted, what a step does with the others,
and the poll budget of the defaults. -/

namespace Sys2Proof.Machine

/-! ### Admitted parameters -/

theorem validPrecision_iff {c : Byte} :
    validPrecision c = true ↔ c = 0x00 ∨ c = 0x01 ∨ c = 0x80 ∨ c = 0x81 := by
  simp only [validPrecision, Bool.or_eq_true, beq_iff_eq, or_assoc]

/-- `paramsAdmitted` as the list of the constraints of R6 and R7 it checks. -/
theorem paramsAdmitted_iff {p : Params} :
    paramsAdmitted p = true ↔
      (1 ≤ p.cdW ∧ p.cdW ≤ 32) ∧ p.cooldownTicks.toNat < 2 ^ p.cdW ∧ p.pollMaxT ≠ 0 ∧ p.pollMaxH ≠ 0
        ∧ (p.initPrecision = 0x00 ∨ p.initPrecision = 0x01 ∨ p.initPrecision = 0x80 ∨ p.initPrecision = 0x81)
        ∧ 0 < p.tickPeriodUs := by
  simp only [paramsAdmitted, Bool.and_eq_true, decide_eq_true_eq, bne_iff_ne, validPrecision_iff, and_assoc]

/-- The parameters are checked before any input of the cycle, `rst` included (log entry 5). -/
theorem step_of_not_paramsAdmitted {s : State} (h : ¬paramsAdmitted s.cfg = true) :
    step s = .refused .badParameters :=
  if_pos (by simpa using h)

/-! ### The poll budget -/

/-- Gaps between the polls that outlast the conversion alone meet the budget, whatever the bus time of an attempt. -/
theorem pollBudgetMet_of_gaps {cfg : Params} {q : Quantity} {conversionUs : Nat}
    (h : conversionUs ≤ ((cfg.pollMax q).toNat - 1) * cfg.pollGap.toNat * cfg.tickPeriodUs) (attemptUs : Nat) :
    pollBudgetMet cfg q attemptUs conversionUs :=
  h.trans (Nat.le_add_left _ _)

end Sys2Proof.Machine

namespace Sys2Proof.Proofs

open Sys2Proof.Machine

/-- Settles O12: each violation contradicts one constraint of `paramsAdmitted`, and a step checks those first. -/
theorem badParametersRefused : Obligations.BadParametersRefused := by
  intro s hbad
  refine step_of_not_paramsAdmitted fun hadm => ?_
  obtain ⟨⟨hwLow, hwHigh⟩, hticks, hpollT, hpollH, hprec, hperiod⟩ := paramsAdmitted_iff.mp hadm
  obtain h | h | h | h | h | h | h := hbad
  · exact absurd hticks (Nat.not_lt.mpr h)
  · exact hpollT h
  · exact hpollH h
  · exact h hprec
  · exact absurd hwLow (by simp [h])
  · exact absurd hwHigh (Nat.not_le.mpr h)
  · exact hperiod.ne' h

/-- Settles O13: the gaps alone last 9 * 10 ms for temperature and 3 * 10 ms for humidity (R7). -/
theorem defaultsMeetPollBudget : Obligations.DefaultsMeetPollBudget := fun attemptUs =>
  ⟨pollBudgetMet_of_gaps (by decide) attemptUs, pollBudgetMet_of_gaps (by decide) attemptUs⟩

end Sys2Proof.Proofs
end

section
/-! PROOFS. What each part of a cycle leaves alone (spec/10_state.md R43): the host's access, the tick, and with them a
whole cycle without `rst`. -/

namespace Sys2Proof.Machine

/-! ### The host's access -/

/-- What the host's access leaves of the start-of-cycle state `s`, an accepted command included: the port, PREC, the
cached values and the timers; the outputs and the wires of the last cycle are gone. -/
structure AfterHost (s u : State) : Prop where
  pend : u.pend = s.pend
  issue : u.issue = none
  history : u.history = s.history
  prec : u.prec = s.prec
  chan : ∀ q, ∃ fresh err, u.chan q = { s.chan q with fresh := fresh, err := err, armedNow := false }
  cfg : u.cfg = s.cfg
  script : u.script = s.script.tail
  cycle : u.cycle = s.cycle + 1

/-- The fields of the readout state machine that a cycle's parts select their effect by. -/
structure ControlSame (s u : State) : Prop where
  phase : u.phase = s.phase
  pend : u.pend = s.pend
  qCur : u.qCur = s.qCur
  thenH : u.thenH = s.thenH
  mode : u.mode = s.mode
  nacks : u.nacks = s.nacks
  wkind : u.wkind = s.wkind
  warg : u.warg = s.warg
  cfg : u.cfg = s.cfg

theorem busyHost_afterHost (host : Option HostAccess) (s : State) : AfterHost s (busyHost host (beginCycle s)) := by
  rw [busyHost_eq]
  exact ⟨rfl, rfl, rfl, rfl, fun q => by cases q <;> exact ⟨_, _, rfl⟩, rfl, rfl, rfl⟩

theorem busyHost_controlSame (host : Option HostAccess) (s : State) :
    ControlSame s (busyHost host (beginCycle s)) := by
  rw [busyHost_eq]
  exact ⟨rfl, rfl, rfl, rfl, rfl, rfl, rfl, rfl, rfl⟩

theorem hostStep_afterHost {host : Option HostAccess} {s u : State} (h : hostStep host (beginCycle s) = .next u) :
    AfterHost s u := by
  by_cases hi : s.phase = .idle
  · obtain ⟨-, q, b, p, wm, wk, wa, e, rfl, -⟩ | ⟨-, rfl⟩ := hostStep_idle_shape hi h
    · exact ⟨rfl, rfl, rfl, rfl, fun q => by cases q <;> exact ⟨_, _, rfl⟩, rfl, rfl, rfl⟩
    · exact busyHost_afterHost host s
  · rw [hostStep_busy host (beginCycle s) hi] at h
    cases h
    exact busyHost_afterHost host s

theorem AfterHost.cache {s u : State} (h : AfterHost s u) (q : Quantity) : (u.chan q).cache = (s.chan q).cache := by
  obtain ⟨_, _, hq⟩ := h.chan q
  rw [hq]

theorem AfterHost.valid {s u : State} (h : AfterHost s u) (q : Quantity) : (u.chan q).valid = (s.chan q).valid := by
  obtain ⟨_, _, hq⟩ := h.chan q
  rw [hq]

theorem AfterHost.safe {s u : State} (h : AfterHost s u) (q : Quantity) : (u.chan q).safe = (s.chan q).safe := by
  obtain ⟨_, _, hq⟩ := h.chan q
  rw [hq]

theorem AfterHost.cnt {s u : State} (h : AfterHost s u) (q : Quantity) : (u.chan q).cnt = (s.chan q).cnt := by
  obtain ⟨_, _, hq⟩ := h.chan q
  rw [hq]

/-! ### The host's writes -/

/-- Only whole words are in the port's contract (spec/20_memory.md R61). -/
theorem hostAdmitted_write_width {offset : Nat} {width : AccessWidth} {w : Word}
    (h : hostAdmitted (some (.write offset width w)) = true) : width = .word := by
  simp only [hostAdmitted, offsetAdmitted, Bool.and_eq_true, beq_iff_eq] at h
  exact h.1.1

theorem writeCommand_of_ok {w : Word} {i : Instr} (h : decode (.command w) = .ok i) (s : State) :
    writeCommand w s = exec i s := by
  simp [writeCommand, h]

theorem writeCommand_of_reject {w : Word} {e : Rejection} (h : decode (.command w) = .reject e) (s : State) :
    writeCommand w s = .next (illegalCommand s) := by
  simp [writeCommand, h]

/-! ### The tick -/

theorem cooldownTick_chan (tick : Bool) (s : State) (q : Quantity) :
    (cooldownTick tick s).chan q = if tick then tickChannel (s.chan q) else s.chan q := by
  rw [cooldownTick_eq]
  cases q <;> rfl

@[simp] theorem cooldownTick_cache (tick : Bool) (s : State) (q : Quantity) :
    ((cooldownTick tick s).chan q).cache = (s.chan q).cache := by
  rw [cooldownTick_chan, tickChannel_eq]
  split <;> rfl

@[simp] theorem cooldownTick_valid (tick : Bool) (s : State) (q : Quantity) :
    ((cooldownTick tick s).chan q).valid = (s.chan q).valid := by
  rw [cooldownTick_chan, tickChannel_eq]
  split <;> rfl

/-- A tick never takes a timer out of SAFE (spec/42_cooldown.md R141). -/
theorem cooldownTick_safe {tick : Bool} {s : State} {q : Quantity} (h : (s.chan q).safe = true) :
    ((cooldownTick tick s).chan q).safe = true := by
  rw [cooldownTick_chan, tickChannel_eq]
  split
  · simp [h]
  · exact h

theorem cooldownTick_controlSame (tick : Bool) (s : State) : ControlSame s (cooldownTick tick s) := by
  rw [cooldownTick_eq]
  exact ⟨rfl, rfl, rfl, rfl, rfl, rfl, rfl, rfl, rfl⟩

theorem cooldownTick_port (tick : Bool) (s : State) : PortSame s (cooldownTick tick s) := by
  rw [cooldownTick_eq]
  exact ⟨rfl, rfl, rfl⟩

theorem cooldownTick_frame (tick : Bool) (s : State) : FsmFrame s (cooldownTick tick s) := by
  rw [cooldownTick_eq]
  exact FsmFrame.refl s

theorem tickChannel_of_safe {c : Channel} (h : c.safe = true) : tickChannel c = c := by
  simp [tickChannel, h]

/-! ### The arms -/

/-- An arm leaves a quantity as it is up to its error field, or stores in READ the acknowledged sample of the quantity
measured and arms its timer (spec/41_measurement.md R118, spec/42_cooldown.md R140). -/
theorem fsmNext_chan (tick : Bool) (rsp : Option Response) (s : State) (q : Quantity) :
    (∃ e, (fsmNext tick rsp s).chan q = { s.chan q with err := e })
      ∨ (s.phase = .read ∧ s.pend = true ∧ s.qCur = q ∧ ∃ b0 b1 b2, rsp = some (.rAck b0 b1 b2)
          ∧ (fsmNext tick rsp s).chan q = { s.chan q with
              cache := decodeSample q b0 b1, valid := true, fresh := true, cnt := s.cfg.cooldownTicks
              safe := s.cfg.cooldownTicks == 0, armedNow := true }) := by
  have kept : ∀ {v : State}, v.t = s.t → v.h = s.h → ∃ e, v.chan q = { s.chan q with err := e } := by
    intro v ht hh
    refine ⟨(s.chan q).err, ?_⟩
    cases q
    · exact ht
    · exact hh
  obtain ⟨ht, hh, -⟩ | ⟨b0, b1, b2, hph, hp, hr, hv⟩ | ⟨r, e, -, -, -, -, hv⟩ | ⟨-, -, ht, hh, -⟩ |
    ⟨-, -, ht, hh, -⟩ := fsmNext_data tick rsp s
  · exact .inl (kept ht hh)
  · obtain ⟨-, -, -, -, hq, hother⟩ :=
      finishOk_data s.qCur (decodeSample s.qCur b0 b1) (consume (.rAck b0 b1 b2) s)
    rw [hv]
    by_cases h : q = s.qCur
    · subst h
      exact .inr ⟨hph, hp, rfl, b0, b1, b2, hr, hq⟩
    · exact .inl ⟨_, hother q h⟩
  · obtain ⟨-, -, hq, hother⟩ := finishFail_data s.qCur e (consume r s)
    rw [hv]
    by_cases h : q = s.qCur
    · subst h
      exact .inl ⟨e, hq⟩
    · exact .inl ⟨_, hother q h⟩
  · exact .inl (kept ht hh)
  · exact .inl (kept ht hh)

/-- An arm writes PREC only for an acknowledged precision write (R26). -/
theorem fsmNext_prec (tick : Bool) (rsp : Option Response) (s : State) :
    (fsmNext tick rsp s).prec = s.prec
      ∨ (s.pend = true ∧ rsp = some .wAck
          ∧ ((s.phase = .initPrec ∧ (fsmNext tick rsp s).prec = s.cfg.initPrecision)
            ∨ (s.phase = .wrcmd ∧ s.wkind = .setp ∧ (fsmNext tick rsp s).prec = s.warg))) := by
  obtain ⟨-, -, hp, -⟩ | ⟨_, _, _, -, -, -, hv⟩ | ⟨_, _, -, -, -, -, hv⟩ | ⟨hpend, hr, -, -, -, hp⟩ |
    ⟨-, -, -, -, hp, -⟩ := fsmNext_data tick rsp s
  · exact .inl hp
  · exact .inl (hv ▸ (finishOk_data _ _ _).1)
  · exact .inl (hv ▸ (finishFail_data _ _ _).1)
  · exact .inr ⟨hpend, hr, hp⟩
  · exact .inl hp

theorem FsmFrame.trans {s u v : State} (h : FsmFrame s u) (h' : FsmFrame u v) : FsmFrame s v := by
  obtain ⟨h1, h2, h3, h4, h5, h6, h7, h8, h9, h10⟩ := h
  obtain ⟨h1', h2', h3', h4', h5', h6', h7', h8', h9', h10'⟩ := h'
  exact ⟨h1'.trans h1, h2'.trans h2, h3'.trans h3, h4'.trans h4, h5'.trans h5, h6'.trans h6, h7'.trans h7,
    h8'.trans h8, h9'.trans h9, h10'.trans h10⟩

/-- The arm and the tick together leave what each of them leaves. -/
theorem tickedArm_frame (tick : Bool) (rsp : Option Response) (s : State) :
    FsmFrame s (cooldownTick tick (fsmNext tick rsp s)) :=
  (fsmNext_frame tick rsp s).trans (cooldownTick_frame tick _)

/-! ### The phases that issue a frame -/

theorem phaseFrame_busyHost (host : Option HostAccess) (s : State) :
    phaseFrame (busyHost host (beginCycle s)) = phaseFrame s := by
  rw [busyHost_eq]
  rfl

theorem issueFrame_of_decode {s : State} {bytes : List Byte} {i : Instr} (hf : phaseFrame s = some bytes)
    (hd : decode (.frame bytes) = .ok i) : issueFrame s = exec i s := by
  simp [issueFrame, hf, hd]

/-- With no transaction outstanding the arm of a phase that has a frame issues it (spec/41_measurement.md R110). -/
theorem fsmStep_of_frame {s : State} {bytes : List Byte} (hf : phaseFrame s = some bytes) (hp : s.pend = false)
    (tick : Bool) (rsp : Option Response) : fsmStep s.phase tick rsp s = issueFrame s := by
  unfold phaseFrame at hf
  unfold fsmStep busPhase
  split at hf <;> rename_i hph <;> simp [hph, hp] at hf ⊢

/-! ### Every part of a cycle answers -/

theorem hostStep_total (host : Option HostAccess) (s : State) : ∃ u, hostStep host s = .next u := by
  by_cases hi : s.phase = .idle
  · obtain ⟨_, w, -, h⟩ | ⟨h, -⟩ := hostStep_idle host s
    · obtain ⟨q, b, p, wm, wk, wa, e, he, -⟩ := writeCommand_idle w s hi
      exact ⟨_, h.trans he⟩
    · exact ⟨_, h⟩
  · exact ⟨_, hostStep_busy host s hi⟩

theorem runParts_total (inp : CycleInput) (s : State) : ∃ t, runParts inp s = .next t := by
  by_cases hi : s.phase = .idle
  · obtain ⟨u, hu⟩ := hostStep_total inp.host s
    exact ⟨_, (runParts_idle inp s hi).trans (by rw [hu]; rfl)⟩
  · exact ⟨_, runParts_busy_eq inp s hi⟩

/-! ### A cycle without reset -/

/-- The parts of a step without `rst`: the host's access leads to `u`, the arm of a busy phase goes on from there, and
then comes the tick. -/
theorem step_parts {s t : State} (h : step s = .next t) (hr : (cycleInput s).rst = false) :
    ∃ u, hostStep (cycleInput s).host (beginCycle s) = .next u ∧ AfterHost s u ∧
      ((s.phase = .idle ∧ t = cooldownTick (cycleInput s).tick u)
        ∨ (s.phase ≠ .idle ∧ ControlSame s u ∧ u = busyHost (cycleInput s).host (beginCycle s)
            ∧ responseAdmitted u (cycleInput s).rsp = true
            ∧ t = cooldownTick (cycleInput s).tick (fsmNext (cycleInput s).tick (cycleInput s).rsp u))) := by
  obtain ⟨-, ⟨hr', -⟩ | ⟨-, -, ha, ⟨hi, u, hu, ht⟩ | ⟨hb, ht⟩⟩⟩ := step_shape h
  · simp [hr] at hr'
  · exact ⟨u, hu, hostStep_afterHost hu, .inl ⟨hi, ht⟩⟩
  · exact ⟨_, hostStep_busy _ _ hb, busyHost_afterHost _ s,
      .inr ⟨hb, busyHost_controlSame _ s, rfl, by rwa [busyHost_responseAdmitted], ht⟩⟩

/-- Of a cycle's parts the host's access alone writes OVR and HOLD: a command accepted in IDLE neither, any other access
as `busyHost` says (spec/20_memory.md R63). -/
theorem step_ovr_hold {s t : State} (h : step s = .next t) (hr : (cycleInput s).rst = false) :
    (s.phase = .idle ∧ (∃ width w, (cycleInput s).host = some (.write 0 width w)) ∧ t.ovr = s.ovr ∧ t.hold = s.hold)
      ∨ ((s.phase = .idle → ∀ width w, (cycleInput s).host ≠ some (.write 0 width w))
          ∧ t.ovr = (busyHost (cycleInput s).host (beginCycle s)).ovr
          ∧ t.hold = (busyHost (cycleInput s).host (beginCycle s)).hold) := by
  obtain ⟨u, hu, -, ⟨hi, rfl⟩ | ⟨hb, -, rfl, -, rfl⟩⟩ := step_parts h hr
  · obtain ⟨-, -, -, -, hhold, hovr, -⟩ := cooldownTick_frame (cycleInput s).tick u
    rw [hovr, hhold]
    obtain ⟨hcmd, q, b, p, wm, wk, wa, e, rfl, -⟩ | ⟨hother, rfl⟩ := hostStep_idle_shape hi hu
    · exact .inl ⟨hi, hcmd, rfl, rfl⟩
    · exact .inr ⟨fun _ => hother, rfl, rfl⟩
  · obtain ⟨-, -, -, -, hhold, hovr, -⟩ := tickedArm_frame (cycleInput s).tick (cycleInput s).rsp
      (busyHost (cycleInput s).host (beginCycle s))
    exact .inr ⟨fun hi => absurd hi hb, hovr, hhold⟩

theorem step_of_rst {s t : State} (h : step s = .next t) (hr : (cycleInput s).rst = true) :
    t = resetBlock (beginCycle s) := by
  obtain ⟨-, ⟨-, ht⟩ | ⟨hr', -⟩⟩ := step_shape h
  · exact ht
  · simp [hr] at hr'

/-- A cycle whose inputs meet the contracts is its parts, whatever they answer. -/
theorem step_eq_runParts {s : State} {host : Option HostAccess} {tick : Bool} {rsp : Option Response}
    (h : Given s host tick rsp) (ha : responseAdmitted s rsp = true) :
    step s = runParts { rst := false, tick := tick, host := host, rsp := rsp } (beginCycle s) := by
  obtain ⟨hp, hh, hin⟩ := h
  simp [step, stepCycle, runCycle, hp, hh, hin, ha]

end Sys2Proof.Machine
end

section
/-! PROOFS. The invariant of spec/10_state.md R45 with its support, clause group by clause group: what it says of the
recorded data, and what it says of the readout state machine. Each part of a cycle keeps both. -/

namespace Sys2Proof.Machine

/-! ### The two halves of the invariant -/

/-- The clauses about one quantity: R45 (a), (b), and a counter of at most COOLDOWN_TICKS (R30). -/
abbrev Channel.Good (limit : BitVec 32) (c : Channel) : Prop := c.Facts ∧ c.cnt.toNat ≤ limit.toNat

/-- The clauses about the data: both quantities, and R45 (c). -/
structure State.Data (s : State) : Prop where
  chan : ∀ q, (s.chan q).Good s.cfg.cooldownTicks
  prec : validPrecision s.prec = true

/-- The clauses about the readout state machine: R45 (d), (e) and the rest of their support. -/
structure State.Control (s : State) : Prop where
  pend : s.pend = true → (outstandingKind s.phase).isSome = true
  nacks : s.phase = .read ∨ s.phase = .gap → s.mode = false → s.nacks.toNat < (s.cfg.pollMax s.qCur).toNat
  delay : s.phase = .delay → s.mode = true
  wrcmd : s.phase = .wrcmd → s.wkind = .setp → validPrecision s.warg = true
  current : s.phase.measuring = true → (s.chan s.qCur).safe = true
  next : s.phase.measuring = true → s.thenH = true → s.qCur = .t ∧ s.h.safe = true

theorem State.inv_iff {s : State} : s.Inv ↔ paramsAdmitted s.cfg = true ∧ s.Data ∧ s.Control := by
  constructor
  · rintro ⟨⟨ht, hh, hprec, hpend, hnacks⟩, hcfg, htc, hhc, hdelay, hwrcmd, hcur, hnext⟩
    exact ⟨hcfg, ⟨fun | .t => ⟨ht, htc⟩ | .h => ⟨hh, hhc⟩, hprec⟩, hpend, hnacks, hdelay, hwrcmd, hcur, hnext⟩
  · rintro ⟨hcfg, ⟨hchan, hprec⟩, hpend, hnacks, hdelay, hwrcmd, hcur, hnext⟩
    obtain ⟨ht, htc⟩ := hchan .t
    obtain ⟨hh, hhc⟩ := hchan .h
    exact ⟨⟨ht, hh, hprec, hpend, hnacks⟩, hcfg, htc, hhc, hdelay, hwrcmd, hcur, hnext⟩

/-! ### One quantity -/

theorem Channel.good_reset (limit : BitVec 32) : Channel.reset.Good limit :=
  ⟨by decide, Nat.zero_le _⟩

/-- The timer just armed is SAFE only with an empty window (spec/42_cooldown.md R140), and no sample is the sentinel
(spec/40_codec.md R104). -/
theorem Channel.good_sampled (limit : BitVec 32) (q : Quantity) (b0 b1 : Byte) (c : Channel) :
    Channel.Good limit { c with
      cache := decodeSample q b0 b1, valid := true, fresh := true, cnt := limit
      safe := limit == 0, armedNow := true } :=
  ⟨⟨fun h => by simpa using h, by simpa using decodeSample_ne_noData q b0 b1⟩, le_rfl⟩

/-- A tick makes a timer SAFE only at 0, and counts down only from above it (R141). -/
theorem Channel.Good.tick {limit : BitVec 32} {c : Channel} (h : c.Good limit) : (tickChannel c).Good limit := by
  obtain ⟨⟨hsafe, hvalid⟩, hcnt⟩ := h
  unfold tickChannel
  split
  · exact ⟨⟨hsafe, hvalid⟩, hcnt⟩
  · rename_i hcool
    split
    · rename_i hzero
      exact ⟨⟨fun _ => hzero, hvalid⟩, hcnt⟩
    · rename_i hpos
      refine ⟨⟨fun hs => absurd (by simp [show c.safe = true from hs]) hcool, hvalid⟩, ?_⟩
      show (c.cnt - 1).toNat ≤ limit.toNat
      bv_omega

/-! ### The data -/

theorem AfterHost.data {s u : State} (h : AfterHost s u) (hs : s.Data) : u.Data where
  chan q := by
    obtain ⟨fresh, err, hq⟩ := h.chan q
    rw [hq, h.cfg]
    exact hs.chan q
  prec := h.prec ▸ hs.prec

theorem cooldownTick_data {tick : Bool} {s : State} (hs : s.Data) : (cooldownTick tick s).Data where
  chan q := by
    rw [cooldownTick_chan, (cooldownTick_controlSame tick s).cfg]
    split
    · exact (hs.chan q).tick
    · exact hs.chan q
  prec := by
    rw [cooldownTick_eq]
    exact hs.prec

/-- The codes an arm writes to PREC are INIT_PRECISION and the one latched in WRCMD (spec/10_state.md R26). -/
theorem fsmNext_keeps_data {tick : Bool} {rsp : Option Response} {s : State} (hcfg : paramsAdmitted s.cfg = true)
    (hd : s.Data) (hc : s.Control) : (fsmNext tick rsp s).Data where
  chan q := by
    obtain ⟨-, -, -, -, -, -, -, hcfg', -⟩ := fsmNext_frame tick rsp s
    rw [hcfg']
    obtain ⟨e, hq⟩ | ⟨-, -, -, b0, b1, b2, -, hq⟩ := fsmNext_chan tick rsp s q <;> rw [hq]
    · exact hd.chan q
    · exact Channel.good_sampled _ q b0 b1 (s.chan q)
  prec := by
    obtain hp | ⟨-, -, ⟨-, hp⟩ | ⟨hph, hk, hp⟩⟩ := fsmNext_prec tick rsp s <;> rw [hp]
    · exact hd.prec
    · obtain ⟨-, -, -, -, hinit, -⟩ := paramsAdmitted_iff.mp hcfg
      exact validPrecision_iff.mpr hinit
    · exact hc.wrcmd hph hk

/-! ### The readout state machine: entering a phase -/

/-- Outside the measurements and WRCMD the clauses ask for a bus phase under an outstanding transaction, and no more. -/
theorem State.Control.of_resting {s : State} (hp : s.pend = true → (outstandingKind s.phase).isSome = true)
    (hm : s.phase.measuring = false) (hw : s.phase ≠ .wrcmd) : s.Control where
  pend := hp
  nacks h := by obtain h | h := h <;> simp [h, Phase.measuring] at hm
  delay h := by simp [h, Phase.measuring] at hm
  wrcmd h := absurd h hw
  current h := by simp [hm] at h
  next h := by simp [hm] at h

theorem State.Control.of_trig {s : State} (hph : s.phase = .trig) (hcur : (s.chan s.qCur).safe = true)
    (hnext : s.thenH = true → s.qCur = .t ∧ s.h.safe = true) : s.Control where
  pend _ := by rw [hph]; rfl
  nacks h := by simp [hph] at h
  delay h := by simp [hph] at h
  wrcmd h := by simp [hph] at h
  current _ := hcur
  next _ := hnext

/-- A measurement that goes on in another phase, no transaction outstanding. -/
theorem State.Control.goOn {s : State} (hc : s.Control) (hm : s.phase.measuring = true) (hp : s.pend = false)
    (p : Phase) (n : BitVec 8) (d : BitVec 16) (hm' : p.measuring = true)
    (hn : p = .read ∨ p = .gap → s.mode = false → n.toNat < (s.cfg.pollMax s.qCur).toNat)
    (hd : p = .delay → s.mode = true) : State.Control { s with phase := p, nacks := n, dcnt := d } where
  pend h := by simp [hp] at h
  nacks := hn
  delay := hd
  wrcmd h := by subst h; simp [Phase.measuring] at hm'
  current _ := hc.current hm
  next _ := hc.next hm

/-- The clauses speak of the control fields, and of the timers only as far as they are SAFE. -/
theorem State.Control.congr {s u : State} (hc : s.Control) (h : ControlSame s u)
    (hsafe : ∀ q, (s.chan q).safe = true → (u.chan q).safe = true) : u.Control where
  pend := by simpa only [h.phase, h.pend] using hc.pend
  nacks := by simpa only [h.phase, h.mode, h.nacks, h.cfg, h.qCur] using hc.nacks
  delay := by simpa only [h.phase, h.mode] using hc.delay
  wrcmd := by simpa only [h.phase, h.wkind, h.warg] using hc.wrcmd
  current hm := by
    rw [h.qCur]
    exact hsafe _ (hc.current (h.phase ▸ hm))
  next hm hth := by
    obtain ⟨hq, hh⟩ := hc.next (h.phase ▸ hm) (h.thenH ▸ hth)
    exact ⟨h.qCur.trans hq, hsafe .h hh⟩

/-! ### The readout state machine: the arms -/

theorem State.Control.startTxn {s : State} (hc : s.Control) (hk : (outstandingKind s.phase).isSome = true) (x : Txn) :
    (startTxn x s).Control :=
  ⟨fun _ => hk, hc.nacks, hc.delay, hc.wrcmd, hc.current, hc.next⟩

theorem State.Control.consume {s : State} (hc : s.Control) (r : Response) : (consume r s).Control :=
  ⟨nofun, hc.nacks, hc.delay, hc.wrcmd, hc.current, hc.next⟩

/-- The end of a measurement: the block is idle, or it goes on with humidity, whose timer is SAFE (R118, R164). -/
theorem endMeasurement_control {q : Quantity} {s : State} (hp : s.pend = false)
    (hnext : q = .t → s.thenH = true → s.h.safe = true) : (endMeasurement q s).Control := by
  unfold endMeasurement
  split
  · rename_i h
    exact State.Control.of_trig rfl (hnext h.1 h.2) nofun
  · exact State.Control.of_resting (by simp [hp]) rfl nofun

theorem finishOk_control {q : Quantity} (n : Word) {s : State} (hp : s.pend = false)
    (hnext : q = .t → s.thenH = true → s.h.safe = true) : (finishOk q n s).Control := by
  cases q
  · exact endMeasurement_control hp hnext
  · exact endMeasurement_control hp nofun

theorem finishFail_control {q : Quantity} (e : ErrCode) {s : State} (hp : s.pend = false)
    (hnext : q = .t → s.thenH = true → s.h.safe = true) : (finishFail q e s).Control := by
  cases q
  · exact endMeasurement_control hp hnext
  · exact endMeasurement_control hp nofun

theorem pollMax_pos {p : Params} (h : paramsAdmitted p = true) (q : Quantity) : 0 < (p.pollMax q).toNat := by
  obtain ⟨-, -, ht, hh, -⟩ := paramsAdmitted_iff.mp h
  cases q
  · simpa [Params.pollMax, Nat.pos_iff_ne_zero, ← BitVec.toNat_inj] using ht
  · simpa [Params.pollMax, Nat.pos_iff_ne_zero, ← BitVec.toNat_inj] using hh

theorem onInitRst_control (r : Response) {s : State} (hc : s.Control) (hp : s.pend = false) :
    (onInitRst r s).Control := by
  have settle : ∀ u : State, u.pend = false → (enterDelay s.cfg.resetSettle .initSettle .initPrec u).Control := by
    intro u hu
    unfold enterDelay
    split <;> exact State.Control.of_resting (by simp [hu]) rfl nofun
  cases r
  · exact settle _ hp
  · exact settle _ hp
  · exact hc
  · exact hc

theorem onInitPrec_control (r : Response) {s : State} (hc : s.Control) (hp : s.pend = false) :
    (onInitPrec r s).Control := by
  cases r
  · exact State.Control.of_resting (by simp [onInitPrec, hp]) rfl nofun
  · exact State.Control.of_resting (by simp [onInitPrec, hp]) rfl nofun
  · exact hc
  · exact hc

theorem onWrcmd_control (r : Response) {s : State} (hc : s.Control) (hp : s.pend = false) :
    (onWrcmd r s).Control := by
  cases r
  · unfold onWrcmd
    cases s.wkind <;> exact State.Control.of_resting (by simp [hp]) rfl nofun
  · exact State.Control.of_resting (by simp [onWrcmd, hp]) rfl nofun
  · exact hc
  · exact hc

/-- TRIG leads to DELAY in hold mode only, and to READ with no refusal counted yet (R113, R114). -/
theorem onTrig_control (r : Response) {s : State} (hcfg : paramsAdmitted s.cfg = true) (hc : s.Control)
    (hph : s.phase = .trig) (hp : s.pend = false) : (onTrig r s).Control := by
  have hm : s.phase.measuring = true := by rw [hph]; rfl
  cases r with
  | wAck =>
    have hzero : (0 : BitVec 8).toNat < (s.cfg.pollMax s.qCur).toNat := pollMax_pos hcfg s.qCur
    unfold onTrig enterDelay
    dsimp only
    split
    · rename_i hmode
      split
      · exact hc.goOn hm hp .read 0 s.dcnt rfl (fun _ _ => hzero) nofun
      · exact hc.goOn hm hp .delay 0 _ rfl (fun _ _ => hzero) fun _ => hmode
    · exact hc.goOn hm hp .read 0 s.dcnt rfl (fun _ _ => hzero) nofun
  | wNack => exact finishFail_control _ hp fun _ hth => (hc.next hm hth).2
  | rAck => exact hc
  | rNack => exact hc

/-- READ counts a refusal only while another poll is left (R116). -/
theorem onRead_control (r : Response) {s : State} (hc : s.Control) (hph : s.phase = .read) (hp : s.pend = false) :
    (onRead r s).Control := by
  have hm : s.phase.measuring = true := by rw [hph]; rfl
  have hnext : s.qCur = .t → s.thenH = true → s.h.safe = true := fun _ hth => (hc.next hm hth).2
  cases r with
  | wAck => exact hc
  | wNack => exact hc
  | rAck b0 b1 b2 => exact finishOk_control _ hp hnext
  | rNack =>
    unfold onRead enterDelay
    dsimp only
    split
    · exact finishFail_control _ hp hnext
    · split
      · exact finishFail_control _ hp hnext
      · rename_i hleft
        have hcount : (s.nacks + 1).toNat < (s.cfg.pollMax s.qCur).toNat := by
          have := (s.cfg.pollMax s.qCur).isLt
          bv_omega
        split
        · exact hc.goOn hm hp .read _ s.dcnt rfl (fun _ _ => hcount) nofun
        · exact hc.goOn hm hp .gap _ _ rfl (fun _ _ => hcount) nofun

/-- A bus phase issues, holds or answers (R110). -/
theorem busNext_control {req : State} {f : Response → State → State} {rsp : Option Response} {s : State}
    (hc : s.Control) (hreq : s.pend = false → req.Control)
    (hf : ∀ r, (f r (consume r s)).Control) : (busNext req f rsp s).Control := by
  obtain ⟨hp, h⟩ | ⟨-, -, h⟩ | ⟨-, r, -, h⟩ := busNext_cases req f rsp s <;> rw [h]
  · exact hreq hp
  · exact hc
  · exact hf r

/-- A wait ends in the phase after it, or goes on (R112). -/
theorem waitDelay_control {next : Phase} (tick : Bool) {s : State} (hc : s.Control)
    (hd : delayExit s.phase = some next) : (waitDelay next tick s).Control := by
  have hp : s.pend = false := by
    cases h : s.pend
    · rfl
    · have := hc.pend h
      cases hph : s.phase <;> simp [hph, delayExit, outstandingKind] at hd this
  unfold waitDelay
  split
  · split
    · cases hph : s.phase <;> rw [hph] at hd <;> cases hd
      · exact State.Control.of_resting (by simp [hp]) rfl nofun
      · exact hc.goOn (by rw [hph]; rfl) hp .read s.nacks s.dcnt rfl
          (fun _ hm => by simp [hc.delay hph] at hm) nofun
      · exact hc.goOn (by rw [hph]; rfl) hp .read s.nacks s.dcnt rfl
          (fun _ => hc.nacks (.inr hph)) nofun
    · exact hc.congr ⟨rfl, rfl, rfl, rfl, rfl, rfl, rfl, rfl, rfl⟩ (fun q => by cases q <;> exact id)
  · exact hc

theorem fsmNext_keeps_control {tick : Bool} {rsp : Option Response} {s : State} (hcfg : paramsAdmitted s.cfg = true)
    (hc : s.Control) : (fsmNext tick rsp s).Control := by
  have frame : (outstandingKind s.phase).isSome = true → s.pend = false →
      (issueWrite ((phaseFrame s).getD []) s).Control := by
    intro hk hp
    rw [issueWrite_of_free _ _ hp]
    exact hc.startTxn hk _
  unfold fsmNext
  split <;> rename_i hph <;> rw [hph] at frame
  · exact hc
  · exact busNext_control hc (frame rfl) fun r => onInitRst_control r (hc.consume r) rfl
  · exact waitDelay_control tick hc (by rw [hph]; rfl)
  · exact busNext_control hc (frame rfl) fun r => onInitPrec_control r (hc.consume r) rfl
  · exact busNext_control hc (frame rfl) fun r => onTrig_control r hcfg (hc.consume r) hph rfl
  · exact waitDelay_control tick hc (by rw [hph]; rfl)
  · exact waitDelay_control tick hc (by rw [hph]; rfl)
  · exact busNext_control hc (fun _ => hc.startTxn (by rw [hph]; rfl) _)
      fun r => onRead_control r (hc.consume r) hph rfl
  · exact busNext_control hc (frame rfl) fun r => onWrcmd_control r (hc.consume r) rfl
  · split
    · refine State.Control.of_resting (fun hp => ?_) rfl nofun
      simpa [hph, outstandingKind] using hc.pend hp
    · exact hc

/-! ### The host's access and the tick -/

/-- In IDLE an accepted command starts from a block at rest; while busy no access touches the control fields. -/
theorem hostStep_keeps_control {host : Option HostAccess} {s u : State} (hc : s.Control)
    (h : hostStep host (beginCycle s) = .next u) : u.Control := by
  have hsafe : ∀ q, (s.chan q).safe = true → (u.chan q).safe = true :=
    fun q hq => ((hostStep_afterHost h).safe q).trans hq
  by_cases hi : s.phase = .idle
  · have hp : s.pend = false := by
      cases hp : s.pend
      · rfl
      · simpa [hi, outstandingKind] using hc.pend hp
    obtain ⟨-, q, b, p, wm, wk, wa, e, rfl, hcase⟩ | ⟨-, rfl⟩ := hostStep_idle_shape hi h
    · obtain ⟨rfl, -⟩ | ⟨rfl, hqt, hqh, hb⟩ | ⟨rfl, hwa⟩ | rfl := hcase
      · exact State.Control.of_resting (by simp [hp]) rfl nofun
      · refine State.Control.of_trig rfl ?_ fun hth => ?_
        · cases q
          · exact hqt rfl
          · exact (hqh rfl).1
        · cases q
          · exact ⟨rfl, hb hth⟩
          · simp [(hqh rfl).2] at hth
      · exact ⟨fun hpend => by simp [hp] at hpend, by simp, nofun, fun _ => hwa, nofun, nofun⟩
      · exact State.Control.of_resting (by simp [hp]) rfl nofun
    · exact hc.congr (busyHost_controlSame host s) hsafe
  · rw [hostStep_busy host (beginCycle s) hi] at h
    cases h
    exact hc.congr (busyHost_controlSame host s) hsafe

theorem cooldownTick_keeps_control {tick : Bool} {s : State} (hc : s.Control) : (cooldownTick tick s).Control :=
  hc.congr (cooldownTick_controlSame tick s) fun _ => cooldownTick_safe

/-! ### Reset, a step and a run -/

theorem resetBlock_inv {s : State} (hcfg : paramsAdmitted s.cfg = true) : (resetBlock s).Inv :=
  State.inv_iff.mpr ⟨hcfg, ⟨fun | .t => Channel.good_reset _ | .h => Channel.good_reset _, rfl⟩,
    State.Control.of_resting nofun rfl nofun⟩

theorem step_keeps_inv {s t : State} (hinv : s.Inv) (h : step s = .next t) : t.Inv := by
  obtain ⟨hcfg, hd, hc⟩ := State.inv_iff.mp hinv
  cases hr : (cycleInput s).rst
  · obtain ⟨u, hu, hafter, hcase⟩ := step_parts h hr
    have hcfgu : paramsAdmitted u.cfg = true := by rwa [hafter.cfg]
    have hdu : u.Data := hafter.data hd
    have hcu : u.Control := hostStep_keeps_control hc hu
    obtain ⟨-, rfl⟩ | ⟨-, -, -, -, rfl⟩ := hcase
    · refine State.inv_iff.mpr ⟨?_, cooldownTick_data hdu, cooldownTick_keeps_control hcu⟩
      rwa [(cooldownTick_controlSame _ u).cfg]
    · refine State.inv_iff.mpr ⟨?_, cooldownTick_data (fsmNext_keeps_data hcfgu hdu hcu),
        cooldownTick_keeps_control (fsmNext_keeps_control hcfgu hcu)⟩
      obtain ⟨-, -, -, -, -, -, -, hcfg', -⟩ := tickedArm_frame (cycleInput s).tick (cycleInput s).rsp u
      rwa [hcfg']
  · rw [step_of_rst h hr]
    exact resetBlock_inv hcfg

theorem run_succ (n : Nat) (s : State) : core.run (n + 1) s = chain (step s) (core.run n) := by
  refine (Host.Core.run.eq_2 core s n).trans ?_
  cases hs : core.step s <;> rw [show step s = _ from hs] <;> rfl

theorem run_keeps_inv {n : Nat} {s t : State} (hinv : s.Inv) (h : core.run n s = .next t) : t.Inv := by
  induction n generalizing s with
  | zero =>
    cases h
    exact hinv
  | succ n ih =>
    obtain ⟨u, hu, hrest⟩ := chain_eq_next.mp ((run_succ n s).symm.trans h)
    exact ih (step_keeps_inv hinv hu) hrest

end Sys2Proof.Machine
end

section
/-! PROOFS. The layout of STATUS, and of a field that is zero-extended to a register (spec/10_state.md R24 to R26). -/

namespace Sys2Proof.Machine

theorem busy_eq (s : State) : busy s = decide (s.phase ≠ .idle) := by
  unfold busy
  cases s.phase <;> rfl

/-- The flags of STATUS and its single reserved bits (R24). -/
theorem statusWord_bits (s : State) :
    (statusWord s).getLsbD 0 = busy s ∧ (statusWord s).getLsbD 1 = s.t.safe ∧ (statusWord s).getLsbD 2 = s.h.safe
      ∧ (statusWord s).getLsbD 3 = s.t.valid ∧ (statusWord s).getLsbD 4 = s.h.valid
      ∧ (statusWord s).getLsbD 5 = s.t.fresh ∧ (statusWord s).getLsbD 6 = s.h.fresh
      ∧ (statusWord s).getLsbD 7 = s.ovr
      ∧ (statusWord s).getLsbD 11 = false ∧ (statusWord s).getLsbD 15 = false := by
  unfold statusWord
  repeat rw [BitVec.getLsbD_append]
  simp

/-- The error fields of STATUS and the reserved field above them (R24, R32). -/
theorem statusWord_errors (s : State) :
    (statusWord s).extractLsb 10 8 = errBits s.t.err ∧ (statusWord s).extractLsb 14 12 = errBits s.h.err
      ∧ (statusWord s).extractLsb 18 16 = errBits s.cmdErr ∧ (statusWord s).extractLsb 31 19 = 0 := by
  unfold statusWord BitVec.extractLsb
  refine ⟨?_, ?_, ?_, ?_⟩ <;> repeat rw [BitVec.extractLsb'_append_eq_of_le (by decide)]
  · rw [BitVec.extractLsb'_append_eq_of_add_le (by decide)]
    exact BitVec.extractLsb'_eq_self
  · rw [BitVec.extractLsb'_append_eq_of_add_le (by decide)]
    exact BitVec.extractLsb'_eq_self
  · rw [BitVec.extractLsb'_append_eq_of_add_le (by decide)]
    exact BitVec.extractLsb'_eq_self
  · rfl

theorem extractLsb'_zeroExtend_low {n : Nat} (m : Nat) (x : BitVec n) (h : n ≤ m) :
    (x.zeroExtend m).extractLsb' 0 n = x := by
  simp [BitVec.extractLsb'_setWidth_of_le, h]

theorem extractLsb'_zeroExtend_high {n : Nat} (m len : Nat) (x : BitVec n) :
    (x.zeroExtend m).extractLsb' n len = 0 := by
  ext i hi
  simp

end Sys2Proof.Machine
end

section
/-! PROOFS. The obligations about the state of the block and what every step keeps of it (spec/10_state.md). -/

namespace Sys2Proof.Proofs

open Sys2Proof.Machine

/-! ### The invariant -/

/-- Settles O56: each part of a cycle keeps the clauses on the data and on the readout state machine, and a reset
establishes them. -/
theorem invariantKeptByStep : Obligations.InvariantKeptByStep := fun _ _ => step_keeps_inv

/-- Settles O55: the reset state is the one a cycle with `rst` leaves. -/
theorem invariantAtReset : Obligations.InvariantAtReset := fun cfg script hcfg =>
  resetBlock_inv (s := { State.reset with cfg := cfg, script := script }) hcfg

/-- Settles O57: the reset state has the invariant, and every step of a run keeps it. -/
theorem reachableStatesHaveFacts : Obligations.ReachableStatesHaveFacts := fun cfg script _ _ hcfg h =>
  (run_keeps_inv (invariantAtReset cfg script hcfg) h).1

/-! ### What a step does -/

/-- Settles O14: a reset needs nothing, admitted inputs run all parts, and the free draws are admitted. -/
theorem admittedInputsStep : Obligations.AdmittedInputsStep := by
  intro s hcfg hin
  cases hr : (cycleInput s).rst
  · have hadm : hostAdmitted (cycleInput s).host = true ∧ responseAdmitted s (cycleInput s).rsp = true := by
      obtain h | h | h := hin
      · simp [hr] at h
      · exact h
      · rw [show cycleInput s = freeInput s by simp [cycleInput, h]]
        exact ⟨freeHost_admitted _, freeResponse_admitted _⟩
    obtain ⟨t, ht⟩ := runParts_total (cycleInput s) (beginCycle s)
    exact ⟨t, step_eq_next.mpr ⟨hcfg, .inr ⟨hr, hadm.1, hadm.2, ht⟩⟩⟩
  · exact ⟨_, step_eq_next.mpr ⟨hcfg, .inl ⟨hr, rfl⟩⟩⟩

/-- Settles O27: only the arm of a busy phase uses the port, in one of the three ways of R110. -/
theorem historyGrowsByOneEvent : Obligations.HistoryGrowsByOneEvent := by
  intro s t h
  refine ⟨fun hr => ?_, fun hr => ?_⟩
  · rw [step_of_rst h hr]
    exact ⟨rfl, rfl, rfl⟩
  · obtain ⟨u, -, hafter, ⟨-, rfl⟩ | ⟨-, hsame, -, hadm, rfl⟩⟩ := step_parts h hr
    · obtain ⟨hth, hti, htp⟩ := cooldownTick_port (cycleInput s).tick u
      exact .inl ⟨hth.trans hafter.history, hti.trans hafter.issue, htp.trans hafter.pend⟩
    · obtain ⟨hth, hti, htp⟩ := cooldownTick_port (cycleInput s).tick
        (fsmNext (cycleInput s).tick (cycleInput s).rsp u)
      rw [hth, hti, htp, ← hafter.history, ← hafter.pend, ← hsame.phase]
      obtain ⟨hh, hi, hp⟩ | ⟨x, hp, hv, -⟩ | ⟨r, hp, hr', hh, hi, hp', hk⟩ :=
        fsmNext_port (cycleInput s).tick (cycleInput s).rsp u hadm
      · exact .inl ⟨hh, hi.trans hafter.issue, hp⟩
      · rw [hv]
        exact .inr (.inl ⟨x, rfl, rfl, hp, rfl⟩)
      · exact .inr (.inr ⟨r, hh, hi.trans hafter.issue, hp, hp', hr', hk⟩)

/-- Settles O46: of a cycle's parts only the arm writes a cached value. -/
theorem cacheChangesOnlyBySample : Obligations.CacheChangesOnlyBySample := by
  intro s t q h hr
  obtain ⟨u, -, hafter, ⟨-, rfl⟩ | ⟨-, hsame, -, -, rfl⟩⟩ := step_parts h hr <;>
    rw [cooldownTick_cache, cooldownTick_valid]
  · exact .inl ⟨hafter.cache q, hafter.valid q⟩
  · rw [← hafter.cache q, ← hafter.valid q, ← hsame.phase, ← hsame.pend, ← hsame.qCur]
    obtain ⟨e, hq⟩ | ⟨hph, hp, hcur, b0, b1, b2, hr', hq⟩ :=
      fsmNext_chan (cycleInput s).tick (cycleInput s).rsp u q <;> rw [hq]
    · exact .inl ⟨rfl, rfl⟩
    · exact .inr ⟨hph, hp, hcur, b0, b1, b2, hr', rfl, rfl⟩

/-- Settles O47: of a cycle's parts only the arm writes PREC. -/
theorem precChangesOnlyByAcknowledgedWrite : Obligations.PrecChangesOnlyByAcknowledgedWrite := by
  intro s t h hr
  obtain ⟨u, -, hafter, ⟨-, rfl⟩ | ⟨-, hsame, -, -, rfl⟩⟩ := step_parts h hr <;>
    rw [cooldownTick_eq]
  · exact .inl hafter.prec
  · rw [← hafter.prec, ← hsame.phase, ← hsame.pend, ← hsame.wkind, ← hsame.warg, ← hsame.cfg]
    exact fsmNext_prec _ _ u

/-- Settles O48: `busyHost` gives both fields for each access but a command accepted in IDLE, which leaves them. -/
theorem ovrAndHoldWrittenOnlyByHost : Obligations.OvrAndHoldWrittenOnlyByHost := by
  refine ⟨rfl, rfl, fun s t h => ⟨fun hr => ?_, fun hr => ?_⟩⟩
  · rw [step_of_rst h hr]
    exact ⟨rfl, rfl⟩
  · obtain ⟨-, ⟨hr', -⟩ | ⟨-, hadm, -⟩⟩ := step_shape h
    · simp [hr] at hr'
    obtain ⟨hi, ⟨width, w, hw⟩, hovr, hhold⟩ | ⟨hn, hovr, hhold⟩ := step_ovr_hold h hr
    · obtain rfl := hostAdmitted_write_width (hw ▸ hadm)
      simp [hw, hi, hovr, hhold]
    · rw [hovr, hhold]
      refine ⟨fun w hw => ?_, fun w hw => ?_, fun w hw => ?_, fun hother => ?_⟩
      · have hb : s.phase ≠ .idle := fun hi => hn hi _ _ hw
        simp [hw, busyHost, hb]
      · simp [hw, busyHost]
      · simp [hw, busyHost]
      · rcases hhost : (cycleInput s).host with _ | ⟨offset, width⟩ | ⟨offset, width, w⟩
        · exact ⟨rfl, rfl⟩
        · exact ⟨rfl, rfl⟩
        · obtain rfl := hostAdmitted_write_width (hhost ▸ hadm)
          obtain ⟨h0, h4, h8⟩ := hother _ _ hhost
          simp [busyHost, h0, h4, h8]

/-- Settles O58: no part of a cycle writes the parameters, and only its start takes from the script and counts. -/
theorem parametersNeverChange : Obligations.ParametersNeverChange := by
  intro s t h
  cases hr : (cycleInput s).rst
  · obtain ⟨u, -, hafter, ⟨-, rfl⟩ | ⟨-, -, -, -, rfl⟩⟩ := step_parts h hr
    · obtain ⟨-, -, -, -, -, -, -, hcfg, hscript, hcycle⟩ := cooldownTick_frame (cycleInput s).tick u
      exact ⟨hcfg.trans hafter.cfg, hscript.trans hafter.script, hcycle.trans hafter.cycle⟩
    · obtain ⟨-, -, -, -, -, -, -, hcfg, hscript, hcycle⟩ :=
        tickedArm_frame (cycleInput s).tick (cycleInput s).rsp u
      exact ⟨hcfg.trans hafter.cfg, hscript.trans hafter.script, hcycle.trans hafter.cycle⟩
  · rw [step_of_rst h hr]
    exact ⟨rfl, rfl, rfl⟩

/-! ### A cycle as the run of its parts -/

/-- Settles O15: the host's access of the cycle is `writeCommand`. -/
theorem stepRunsWrittenCommand : Obligations.StepRunsWrittenCommand := by
  intro s w tick rsp hgiven hadm rest s0
  have hstep : step s = chain (writeCommand w s0) rest := step_eq_runParts hgiven hadm
  refine ⟨fun i hd => hstep.trans (by rw [writeCommand_of_ok hd]), fun e hd => hstep.trans ?_⟩
  split
  · rename_i hi
    rw [writeCommand_of_reject hd, illegalCommand, acceptCommand_idle _ s0 hi, chain_next]
  · rename_i hb
    rw [writeCommand_busy w s0 hb, chain_next]

/-- Settles O16: the host's access of a busy cycle leaves the phase its frame, and the arm runs it. -/
theorem stepRunsIssuedFrame : Obligations.StepRunsIssuedFrame := by
  intro s bytes i host tick hgiven hp hf hd
  have hsame := busyHost_controlSame host s
  have hfu := (phaseFrame_busyHost host s).trans hf
  have hb : s.phase ≠ .idle := fun hi => by simp [phaseFrame, hi] at hf
  rw [step_eq_runParts hgiven rfl, runParts_busy _ (beginCycle s) hb, beginCycle_phase, ← hsame.phase,
    fsmStep_of_frame hfu (hsame.pend.trans hp), issueFrame_of_decode hfu hd]

/-- Settles O52: in IDLE there is no arm to run, and a tick leaves a SAFE timer alone. -/
theorem idleIsQuiescent : Obligations.IdleIsQuiescent := by
  have quiet : ∀ (s : State) (host : Option HostAccess) (tick : Bool), Given s host tick none → s.phase = .idle →
      (∀ width w, host ≠ some (.write 0x00 width w)) →
      step s = .next (cooldownTick tick (busyHost host (beginCycle s))) := by
    intro s host tick hgiven hi hn
    rw [step_eq_runParts hgiven rfl, runParts_idle _ (beginCycle s) hi]
    obtain ⟨width, w, hw, -⟩ | ⟨hbusy, -⟩ := hostStep_idle host (beginCycle s)
    · exact absurd hw (hn width w)
    · rw [hbusy, chain_next]
  refine ⟨quiet, fun s tick hgiven hi ht hh => ?_⟩
  rw [quiet s none tick hgiven hi nofun, cooldownTick_eq]
  simp only [busyHost, beginCycle_t, beginCycle_h]
  rw [tickChannel_of_safe (c := { s.t with armedNow := false }) ht,
    tickChannel_of_safe (c := { s.h with armedNow := false }) hh, ite_self, ite_self]
  rfl

/-! ### The registers -/

/-- Settles O8: the reset state is closed, so the table is evaluated. -/
theorem resetValues : Obligations.ResetValues := by
  unfold Obligations.ResetValues
  decide

/-- Settles O18: STATUS by its concatenation, CTRL and PREC as zero-extended fields. -/
theorem statusFieldLayout : Obligations.StatusFieldLayout := by
  intro s
  obtain ⟨h0, h1, h2, h3, h4, h5, h6, h7, h11, h15⟩ := statusWord_bits s
  obtain ⟨ht, hh, hc, hr⟩ := statusWord_errors s
  exact ⟨h0.trans (busy_eq s), h1, h2, h3, h4, h5, h6, h7, ht, h11, hh, h15, hc, hr, by simp [regRead],
    extractLsb'_zeroExtend_high 32 31 (BitVec.ofBool s.hold), extractLsb'_zeroExtend_low 32 s.prec (by decide),
    extractLsb'_zeroExtend_high 32 24 s.prec, rfl, rfl, rfl, rfl, rfl⟩

end Sys2Proof.Proofs
end

section
/-! PROOFS. The contracts of the two ports (spec/20_memory.md): what a cycle does with an input outside them, what a
host access reads and writes, and which transactions a cycle may start. -/

namespace Sys2Proof.Machine

/-! ### Inputs outside the contracts -/

theorem offsetAdmitted_iff {offset : Nat} {width : AccessWidth} :
    offsetAdmitted offset width = true ↔ width = .word ∧ offset % 4 = 0 ∧ offset < 0x20 := by
  simp only [offsetAdmitted, Bool.and_eq_true, beq_iff_eq, decide_eq_true_eq, and_assoc]

/-- The host's access is checked before the response (spec/60_exceptions.md R219). -/
theorem step_of_not_hostAdmitted {s : State} (hcfg : paramsAdmitted s.cfg = true) (hr : (cycleInput s).rst = false)
    (hh : ¬hostAdmitted (cycleInput s).host = true) : step s = .refused .hostAccess := by
  simp [step, stepCycle, runCycle, hcfg, hr, hh]

theorem step_of_not_responseAdmitted {s : State} (hcfg : paramsAdmitted s.cfg = true)
    (hr : (cycleInput s).rst = false) (hh : hostAdmitted (cycleInput s).host = true)
    (ha : ¬responseAdmitted s (cycleInput s).rsp = true) : step s = .fault .noMove := by
  simp [step, stepCycle, runCycle, hcfg, hr, hh, ha]

theorem responseAdmitted_some_iff {s : State} {r : Response} :
    responseAdmitted s (some r) = true ↔ s.pend = true ∧ outstandingKind s.phase = some (responseKind r) := by
  simp only [responseAdmitted, Bool.and_eq_true, beq_iff_eq]

/-! ### A register read -/

/-- The concatenation of R62, BUSY written out (spec/10_state.md R46). -/
theorem statusWord_eq (s : State) : statusWord s =
    0#13 ++ errBits s.cmdErr ++ 0#1 ++ errBits s.h.err ++ 0#1 ++ errBits s.t.err ++ BitVec.ofBool s.ovr
      ++ BitVec.ofBool s.h.fresh ++ BitVec.ofBool s.t.fresh ++ BitVec.ofBool s.h.valid
      ++ BitVec.ofBool s.t.valid ++ BitVec.ofBool s.h.safe ++ BitVec.ofBool s.t.safe
      ++ BitVec.ofBool (decide (s.phase ≠ .idle)) := by
  rw [← busy_eq]
  rfl

/-- The register map of R62 as a chain of comparisons. -/
theorem regRead_eq (s : State) (offset : Nat) : regRead s offset =
    if offset = 0x04 then statusWord s
    else if offset = 0x08 then (BitVec.ofBool s.hold).zeroExtend 32
    else if offset = 0x0C then s.prec.zeroExtend 32
    else if offset = 0x10 then s.t.cache
    else if offset = 0x14 then s.h.cache
    else if offset = 0x18 then s.t.cnt
    else if offset = 0x1C then s.h.cnt
    else 0 := by
  unfold regRead
  split
  case h_8 h4 h8 hC h10 h14 h18 h1C =>
    rw [if_neg h4, if_neg h8, if_neg hC, if_neg h10, if_neg h14, if_neg h18, if_neg h1C]
  all_goals rfl

/-- The start of a cycle clears no field that a register shows. -/
@[simp] theorem regRead_beginCycle (s : State) (offset : Nat) : regRead (beginCycle s) offset = regRead s offset := by
  rw [regRead_eq, regRead_eq]
  rfl

/-- The state with another reply to the host (spec/10_state.md R42). -/
def State.withRdata (d : Option Word) (s : State) : State := { s with rdata := d }

@[simp] theorem withRdata_phase (d : Option Word) (s : State) : (s.withRdata d).phase = s.phase := rfl

theorem ite_withRdata {c : Prop} [Decidable c] {d : Option Word} {a a' b b' : State} (ha : a' = a.withRdata d)
    (hb : b' = b.withRdata d) : (if c then a' else b') = (if c then a else b).withRdata d := by
  rw [ha, hb, apply_ite (State.withRdata d)]

/-- An update that neither reads nor writes the reply to the host. -/
def RdataBlind (f : State → State) : Prop :=
  ∀ (d : Option Word) (s : State), f (s.withRdata d) = (f s).withRdata d

theorem enterDelay_rdataBlind (n : BitVec 16) (p p' : Phase) : RdataBlind (enterDelay n p p') :=
  fun _ _ => ite_withRdata rfl rfl

theorem waitDelay_rdataBlind (p : Phase) (tick : Bool) : RdataBlind (waitDelay p tick) :=
  fun _ _ => ite_withRdata (ite_withRdata rfl rfl) rfl

theorem cooldownTick_rdataBlind (tick : Bool) : RdataBlind (cooldownTick tick) :=
  fun _ _ => ite_withRdata rfl rfl

theorem issueWrite_rdataBlind (bytes : List Byte) : RdataBlind (issueWrite bytes) :=
  fun _ _ => ite_withRdata rfl rfl

theorem endMeasurement_rdataBlind (q : Quantity) : RdataBlind (endMeasurement q) :=
  fun _ _ => ite_withRdata rfl rfl

theorem finishOk_rdataBlind (q : Quantity) (n : Word) : RdataBlind (finishOk q n) := fun d s => by
  have hend := endMeasurement_rdataBlind q d (arm q (storeSample q n s))
  cases q <;> exact hend

theorem finishFail_rdataBlind (q : Quantity) (e : ErrCode) : RdataBlind (finishFail q e) := fun d s => by
  have hend := endMeasurement_rdataBlind q d (recordErr q e s)
  cases q <;> exact hend

theorem onInitRst_rdataBlind : ∀ r, RdataBlind (onInitRst r)
  | .wAck => fun d s => enterDelay_rdataBlind _ _ _ d s
  | .wNack => fun d s => enterDelay_rdataBlind _ _ _ d { s with cmdErr := .busError }
  | .rAck _ _ _ | .rNack => fun _ _ => rfl

theorem onInitPrec_rdataBlind : ∀ r, RdataBlind (onInitPrec r)
  | .wAck | .wNack | .rAck _ _ _ | .rNack => fun _ _ => rfl

theorem onTrig_rdataBlind : ∀ r, RdataBlind (onTrig r)
  | .wAck => fun d s => ite_withRdata (enterDelay_rdataBlind _ _ _ d { s with nacks := 0 }) rfl
  | .wNack => fun d s => finishFail_rdataBlind _ _ d s
  | .rAck _ _ _ | .rNack => fun _ _ => rfl

theorem onRead_rdataBlind : ∀ r, RdataBlind (onRead r)
  | .rAck _ _ _ => fun d s => finishOk_rdataBlind _ _ d s
  | .rNack => fun d s => ite_withRdata (finishFail_rdataBlind _ _ d s)
      (ite_withRdata (finishFail_rdataBlind _ _ d s) (enterDelay_rdataBlind _ _ _ d { s with nacks := s.nacks + 1 }))
  | .wAck | .wNack => fun _ _ => rfl

theorem onWrcmd_rdataBlind : ∀ r, RdataBlind (onWrcmd r)
  | .wAck => fun d s => by
    unfold onWrcmd State.withRdata
    cases s.wkind <;> rfl
  | .wNack | .rAck _ _ _ | .rNack => fun _ _ => rfl

theorem busNext_withRdata {req : State → State} {f : Response → State → State} (hreq : RdataBlind req)
    (hf : ∀ r, RdataBlind (f r)) (rsp : Option Response) (d : Option Word) (s : State) :
    busNext (req (s.withRdata d)) f rsp (s.withRdata d) = (busNext (req s) f rsp s).withRdata d := by
  refine ite_withRdata ?_ (hreq d s)
  cases rsp with
  | none => rfl
  | some r => exact hf r d (consume r s)

/-- The arm of a phase does not see what the host has read. -/
theorem fsmNext_rdataBlind (tick : Bool) (rsp : Option Response) : RdataBlind (fsmNext tick rsp) := fun d s => by
  have hframe := issueWrite_rdataBlind ((phaseFrame s).getD [])
  have hread : RdataBlind (startTxn (.busRead s.cfg.devAddr 3)) := fun _ _ => rfl
  unfold fsmNext
  rw [withRdata_phase]
  cases s.phase
  · exact busNext_withRdata hframe onInitRst_rdataBlind rsp d s
  · exact waitDelay_rdataBlind _ tick d s
  · exact busNext_withRdata hframe onInitPrec_rdataBlind rsp d s
  · rfl
  · exact busNext_withRdata hframe onTrig_rdataBlind rsp d s
  · exact waitDelay_rdataBlind _ tick d s
  · exact busNext_withRdata hread onRead_rdataBlind rsp d s
  · exact waitDelay_rdataBlind _ tick d s
  · exact busNext_withRdata hframe onWrcmd_rdataBlind rsp d s
  · exact ite_withRdata rfl rfl

/-- A read adds the reply to what the cycle without it does (R62). -/
theorem runParts_read (offset : Nat) (width : AccessWidth) (tick : Bool) (rsp : Option Response) (s : State) :
    runParts { rst := false, tick := tick, host := some (.read offset width), rsp := rsp } s =
      chain (runParts { rst := false, tick := tick, host := none, rsp := rsp } s) fun t =>
        .next (t.withRdata (some (regRead s offset))) := by
  by_cases hi : s.phase = .idle
  · rw [runParts_idle _ s hi, runParts_idle _ s hi]
    exact congrArg _ (cooldownTick_rdataBlind tick _ s)
  · rw [runParts_busy_eq _ s hi, runParts_busy_eq _ s hi]
    exact congrArg _ ((congrArg _ (fsmNext_rdataBlind tick rsp _ s)).trans (cooldownTick_rdataBlind tick _ _))

/-! ### The transactions a cycle may start -/

/-- A transaction started is the read of READ or the phase's frame, to DEV_ADDR (R66, R67). -/
theorem step_issue {s t : State} {x : Txn} (h : step s = .next t) (hx : t.issue = some x) :
    (s.phase = .read ∧ x = .busRead s.cfg.devAddr 3)
      ∨ ∃ bytes, phaseFrame s = some bytes ∧ x = .busWrite s.cfg.devAddr bytes := by
  cases hr : (cycleInput s).rst
  · obtain ⟨u, -, hafter, ⟨-, rfl⟩ | ⟨-, hsame, hu, hadm, rfl⟩⟩ := step_parts h hr
    · obtain ⟨-, hti, -⟩ := cooldownTick_port (cycleInput s).tick u
      simp [hti, hafter.issue] at hx
    · obtain ⟨-, hti, -⟩ := cooldownTick_port (cycleInput s).tick
        (fsmNext (cycleInput s).tick (cycleInput s).rsp u)
      have hframe : phaseFrame u = phaseFrame s := hu ▸ phaseFrame_busyHost (cycleInput s).host s
      rw [hti] at hx
      rw [← hsame.phase, ← hsame.cfg, ← hframe]
      obtain ⟨-, hi, -⟩ | ⟨y, -, hv, hy⟩ | ⟨-, -, -, -, hi, -⟩ :=
        fsmNext_port (cycleInput s).tick (cycleInput s).rsp u hadm
      · simp [hi, hafter.issue] at hx
      · rw [hv, startTxn_issue] at hx
        cases hx
        exact hy
      · simp [hi, hafter.issue] at hx
  · simp [step_of_rst h hr, resetBlock, State.reset] at hx

/-- Every frame a phase puts on the port is one of R82 with bytes of R84, a USERREG code being a precision code: the
code of INIT_PREC is a parameter, that of WRCMD was checked when it was latched (spec/43_commands.md R166). -/
theorem txnAllowed_of_phaseFrame {s : State} {bytes : List Byte} (hinv : s.Inv) (hf : phaseFrame s = some bytes) :
    txnAllowed s.cfg (.busWrite s.cfg.devAddr bytes) = true := by
  obtain ⟨hcfg, -, hc⟩ := State.inv_iff.mp hinv
  have userreg : ∀ code, validPrecision code = true →
      txnAllowed s.cfg (.busWrite s.cfg.devAddr (encodeUserRegister code)) = true := by
    intro code hcode
    simp [txnAllowed, encodeUserRegister, hcode]
  unfold phaseFrame at hf
  split at hf
  case h_1 =>
    cases hf
    simp [txnAllowed, resetFrame]
  case h_2 =>
    cases hf
    obtain ⟨-, -, -, -, hinit, -⟩ := paramsAdmitted_iff.mp hcfg
    exact userreg _ (validPrecision_iff.mpr hinit)
  case h_3 =>
    cases hf
    cases s.qCur <;> cases s.mode <;> simp [txnAllowed, encodeTrigger, triggerByte]
  case h_4 hph =>
    split at hf <;> cases hf
    · exact userreg _ (hc.wrcmd hph ‹_›)
    · simp [txnAllowed, resetFrame]
  all_goals cases hf

end Sys2Proof.Machine
end

section
/-! PROOFS. The obligations about the ports of the block (spec/20_memory.md). -/

namespace Sys2Proof.Proofs

open Sys2Proof.Machine

/-- Settles O26: a transaction started is the phase's own, which the invariant makes a listed one, and the history has
grown by it alone (O27). -/
theorem onlyListedTransactionsIssued : Obligations.OnlyListedTransactionsIssued := by
  intro s t x hinv h hx
  have hallowed : txnAllowed s.cfg x = true := by
    obtain ⟨-, rfl⟩ | ⟨bytes, hf, rfl⟩ := step_issue h hx
    · simp [txnAllowed]
    · exact txnAllowed_of_phaseFrame hinv hf
  obtain ⟨hreset, hrun⟩ := historyGrowsByOneEvent s t h
  cases hr : (cycleInput s).rst
  · obtain ⟨-, hi, -⟩ | ⟨y, hh, hi, hp, hp'⟩ | ⟨-, -, hi, -⟩ := hrun hr <;> rw [hi] at hx <;> cases hx
    exact ⟨hallowed, hp, hp', hh⟩
  · obtain ⟨-, hi, -⟩ := hreset hr
    simp [hi] at hx

/-- Settles O17: the cycle with the read is the cycle without it, with the reply added. -/
theorem regReadReturnsAndChangesNothing : Obligations.RegReadReturnsAndChangesNothing := by
  intro s t offset width tick rsp rest cycle hadm h
  obtain ⟨hcfg, ⟨hr, -⟩ | ⟨-, -, ha, hparts⟩⟩ := step_eq_next.mp h
  · cases hr
  · refine step_eq_next.mpr ⟨hcfg, .inr ⟨rfl, hadm, ha, ?_⟩⟩
    have hquiet : runParts { rst := false, tick := tick, host := none, rsp := rsp } (beginCycle (cycle none))
        = .next t := hparts
    refine (runParts_read offset width tick rsp (beginCycle (cycle none))).trans ?_
    rw [hquiet, chain_next, regRead_beginCycle, regRead_eq, statusWord_eq]
    rfl

/-- Settles O19: the four cases of the write, a word written to CMD while busy being dropped (R63). -/
theorem regWriteEffects : Obligations.RegWriteEffects := by
  intro s offset w _
  show regWrite offset w s = _
  unfold regWrite
  split
  case h_1 =>
    rw [if_pos rfl]
    split
    · rfl
    · exact writeCommand_busy w s ‹_›
  case h_2 => cases w.getLsbD 7 <;> simp
  case h_3 => rfl
  case h_4 h0 h4 h8 => rw [if_neg h0, if_neg h4, if_neg h8]

/-- Settles O10: each violation contradicts one clause of R61. -/
theorem accessOutsideContractRefused : Obligations.AccessOutsideContractRefused := by
  intro s offset width w hcfg hr hhost hbad
  have hout : ¬offsetAdmitted offset width = true := by
    intro hadm
    obtain ⟨hword, halign, hwindow⟩ := offsetAdmitted_iff.mp hadm
    obtain h | h | h := hbad
    · exact h hword
    · exact h halign
    · exact absurd hwindow (Nat.not_lt.mpr h)
  refine step_of_not_hostAdmitted hcfg hr ?_
  obtain h | h := hhost <;> rw [h] <;> exact hout

/-- Settles O11: R68 (a) and (b) are the two clauses of `responseAdmitted`. -/
theorem responseOutsideContractHasNoMove : Obligations.ResponseOutsideContractHasNoMove := by
  intro s r hcfg hr hh hrsp hbad
  refine step_of_not_responseAdmitted hcfg hr hh fun hadm => ?_
  rw [hrsp] at hadm
  obtain ⟨hpend, hkind⟩ := responseAdmitted_some_iff.mp hadm
  obtain h | h := hbad
  · simp [h] at hpend
  · exact h hkind

/-- Settles O59: inside the window the offset is the distance from REG_BASE. -/
theorem windowIsThirtyTwoBytes : Obligations.WindowIsThirtyTwoBytes := by
  intro address offset
  unfold windowOffset
  split
  · rw [Option.some.injEq]
    omega
  · simp only [reduceCtorEq, false_iff]
    omega

end Sys2Proof.Proofs
end

section
/-! PROOFS. The two encoding spaces (spec/30_encoding.md): the fields a command word is put together from, what each
decoder answers, and that decoding inverts encoding in both spaces. -/

namespace Sys2Proof.Machine

/-! ### The command word and its fields -/

/-- The command word with these fields, from the highest to the lowest (R80). -/
def commandWord (rsv1 : BitVec 16) (arg : Byte) (rsv0 op : BitVec 4) : Word := rsv1 ++ arg ++ rsv0 ++ op

section
variable (rsv1 : BitVec 16) (arg : Byte) (rsv0 op : BitVec 4)

@[simp] theorem opField_commandWord : opField (commandWord rsv1 arg rsv0 op) = op :=
  BitVec.extractLsb'_append_eq_right

@[simp] theorem rsv0Field_commandWord : rsv0Field (commandWord rsv1 arg rsv0 op) = rsv0 :=
  (BitVec.extractLsb'_append_eq_of_le (by decide)).trans BitVec.extractLsb'_append_eq_right

@[simp] theorem argField_commandWord : argField (commandWord rsv1 arg rsv0 op) = arg := by
  unfold argField commandWord
  repeat rw [BitVec.extractLsb'_append_eq_of_le (by decide)]
  exact BitVec.extractLsb'_append_eq_right

@[simp] theorem rsv1Field_commandWord : rsv1Field (commandWord rsv1 arg rsv0 op) = rsv1 := by
  unfold rsv1Field commandWord
  repeat rw [BitVec.extractLsb'_append_eq_of_le (by decide)]
  exact BitVec.extractLsb'_eq_self

end

/-- No bit of a word lies outside its four fields. -/
theorem commandWord_fields (w : Word) : commandWord (rsv1Field w) (argField w) (rsv0Field w) (opField w) = w := by
  unfold commandWord rsv1Field argField rsv0Field opField
  repeat rw [BitVec.extractLsb'_append_extractLsb'_eq_extractLsb' (by decide)]
  exact BitVec.extractLsb'_eq_self

/-- ARG of WAIT_SAFE is the must-be-zero part over the mask (R87). -/
theorem maskRest_append_maskField (w : Word) : maskRest w ++ maskField w = argField w :=
  BitVec.extractLsb'_append_extractLsb'_eq_extractLsb' (by decide)

@[simp] theorem maskRest_commandWord (rsv1 : BitVec 16) (rest : BitVec 6) (m : BitVec 2) (rsv0 op : BitVec 4) :
    maskRest (commandWord rsv1 (rest ++ m) rsv0 op) = rest := by
  unfold maskRest commandWord
  repeat rw [BitVec.extractLsb'_append_eq_of_le (by decide)]
  rw [BitVec.extractLsb'_append_eq_of_add_le (by decide), BitVec.extractLsb'_append_eq_of_le (by decide)]
  exact BitVec.extractLsb'_eq_self

@[simp] theorem maskField_commandWord (rsv1 : BitVec 16) (rest : BitVec 6) (m : BitVec 2) (rsv0 op : BitVec 4) :
    maskField (commandWord rsv1 (rest ++ m) rsv0 op) = m := by
  unfold maskField commandWord
  repeat rw [BitVec.extractLsb'_append_eq_of_le (by decide)]
  rw [BitVec.extractLsb'_append_eq_of_add_le (by decide)]
  exact BitVec.extractLsb'_append_eq_right

/-- The two lower fields as the word's low byte. -/
theorem commandWord_lowByte (rsv1 : BitVec 16) (arg : Byte) (rsv0 op : BitVec 4) :
    commandWord rsv1 arg rsv0 op = rsv1 ++ arg ++ (rsv0 ++ op) :=
  BitVec.append_assoc

theorem encode_setPrecision (p : Byte) : encode (.setPrecision p) = .command (commandWord 0 p 0 0x4) :=
  congrArg Encoded.command (commandWord_lowByte 0 p 0 0x4).symm

theorem encode_waitSafe (m : BitVec 2) : encode (.waitSafe m) = .command (commandWord 0 (0#6 ++ m) 0 0x6) := by
  show Encoded.command (0#16 ++ 0#6 ++ m ++ 0x06#8) = _
  rw [commandWord_lowByte, BitVec.append_assoc (x₁ := 0#16)]
  rfl

/-! ### The decoder of command words -/

/-- The opcode map of R81 with the must-be-zero bits of ARG (R87), as the list of what decodes. -/
theorem decodeOp_eq_ok {w : Word} {i : Instr} :
    decodeOp w = .ok i ↔
      (argField w = 0 ∧ (opField w = 0x1 ∧ .getT = i ∨ opField w = 0x2 ∧ .getH = i
          ∨ opField w = 0x3 ∧ .getData = i ∨ opField w = 0x5 ∧ .softReset = i))
        ∨ (opField w = 0x4 ∧ .setPrecision (argField w) = i)
        ∨ (opField w = 0x6 ∧ maskRest w = 0 ∧ .waitSafe (maskField w) = i) := by
  unfold decodeOp
  split_ifs <;> simp_all [withoutArg_ok]

theorem decode_command_eq_ok {w : Word} {i : Instr} :
    decode (.command w) = .ok i ↔ rsv0Field w = 0 ∧ rsv1Field w = 0 ∧ decodeOp w = .ok i := by
  simp only [decode, decodeCommand]
  split <;> simp_all

/-- Decoding a command word inverts encoding. -/
theorem decode_command_iff_encode {w : Word} {i : Instr} :
    decode (.command w) = .ok i ↔ encode i = .command w := by
  rw [decode_command_eq_ok, decodeOp_eq_ok]
  constructor
  · rintro ⟨h0, h1, h⟩
    rw [← commandWord_fields w, h0, h1]
    obtain ⟨ha, h⟩ | ⟨ho, rfl⟩ | ⟨ho, hm, rfl⟩ := h
    · rw [ha]
      obtain ⟨ho, rfl⟩ | ⟨ho, rfl⟩ | ⟨ho, rfl⟩ | ⟨ho, rfl⟩ := h <;> rw [ho] <;> rfl
    · rw [ho]
      exact encode_setPrecision _
    · rw [ho, ← maskRest_append_maskField w, hm]
      exact encode_waitSafe _
  · intro h
    cases i
    case setPrecision p =>
      rw [encode_setPrecision] at h
      cases h
      simp
    case waitSafe m =>
      rw [encode_waitSafe] at h
      cases h
      simp
    all_goals cases h <;> decide

/-! ### The decoder of frames -/

/-- Decoding a frame inverts encoding, whatever the code of a USERREG frame (log entry 13). -/
theorem decode_frame_iff_encode {bytes : List Byte} {i : Instr} :
    decode (.frame bytes) = .ok i ↔ encode i = .frame bytes := by
  constructor
  · intro h
    match bytes with
    | [b] =>
      simp only [decode, decodeFrame, decodeByte] at h
      split_ifs at h <;> cases h
      all_goals subst b; rfl
    | [b0, b1] =>
      simp only [decode, decodeFrame, decodePair] at h
      split_ifs at h
      cases h
      subst b0
      rfl
    | [] | _ :: _ :: _ :: _ => cases h
  · intro h
    cases i <;> cases h <;> rfl

/-- A word or a frame decodes to an instruction exactly when it is that instruction's encoding. -/
theorem decode_iff_encode {e : Encoded} {i : Instr} : decode e = .ok i ↔ encode i = e := by
  cases e
  · exact decode_command_iff_encode
  · exact decode_frame_iff_encode

/-! ### The frames of the phases -/

/-- The frames of R82 are all that a phase puts on the port. -/
theorem phaseFrame_cases {s : State} {bytes : List Byte} (h : phaseFrame s = some bytes) :
    bytes = resetFrame ∨ (∃ code, bytes = encodeUserRegister code) ∨ ∃ q mode, bytes = encodeTrigger q mode := by
  unfold phaseFrame at h
  split at h
  case h_1 =>
    cases h
    exact .inl rfl
  case h_2 =>
    cases h
    exact .inr (.inl ⟨_, rfl⟩)
  case h_3 =>
    cases h
    exact .inr (.inr ⟨_, _, rfl⟩)
  case h_4 =>
    split at h <;> cases h
    · exact .inr (.inl ⟨_, rfl⟩)
    · exact .inl rfl
  all_goals cases h

end Sys2Proof.Machine
end

section
/-! PROOFS. The obligations about the two encoding spaces (spec/30_encoding.md). -/

namespace Sys2Proof.Proofs

open Sys2Proof.Machine

/-- Settles O2: the two directions of `decode_iff_encode`; well-formedness is not needed, since a USERREG frame decodes
with any code (log entry 13). -/
theorem decodeAndEncodeAgree : Obligations.DecodeAndEncodeAgree :=
  ⟨fun _ _ => decode_iff_encode.mpr rfl, fun _ _ => decode_iff_encode.mp⟩

/-- Settles O3: the formula of R88 is what the opcode map accepts, with the instruction forgotten. -/
theorem decodesExactlyLegalWords : Obligations.DecodesExactlyLegalWords := by
  intro w
  show _ ↔ rsv1Field w = 0 ∧ rsv0Field w = 0
      ∧ (((opField w = 0x1 ∨ opField w = 0x2 ∨ opField w = 0x3 ∨ opField w = 0x5) ∧ argField w = 0x00)
        ∨ opField w = 0x4 ∨ (opField w = 0x6 ∧ maskRest w = 0))
  simp only [decode_command_eq_ok, decodeOp_eq_ok, exists_and_left, exists_or, exists_eq', and_true]
  tauto

/-- Settles O1: the words are closed, so the decoder is evaluated on each. -/
theorem wordsDecode : Obligations.WordsDecode := by
  unfold Obligations.WordsDecode
  decide

/-- Settles O4: the four rows of the table of R85, and the three bits of each. -/
theorem triggerBytes : Obligations.TriggerBytes := by
  refine ⟨rfl, rfl, rfl, rfl, fun q m => ?_⟩
  cases q <;> cases m <;> decide

/-- Settles O25: no frame of R82 that a phase carries begins with 0xE7. -/
theorem readUserregNeverIssued : Obligations.ReadUserregNeverIssued := by
  refine fun s => ⟨rfl, fun bytes h => ?_⟩
  obtain rfl | ⟨code, rfl⟩ | ⟨q, mode, rfl⟩ := phaseFrame_cases h
  · decide
  · show some (0xE6#8) ≠ some 0xE7
    decide
  · cases q <;> cases mode <;> decide

end Sys2Proof.Proofs
end

section
/-! PROOFS. The codec (spec/40_codec.md): the physical value of a decoded sample, and what a cycle makes of the bits of
a response that are no part of the sample. -/

namespace Sys2Proof.Machine

/-! ### The masked sample -/

theorem maskedSample_mod_four (b0 b1 : Byte) : (maskedSample b0 b1).toNat % 4 = 0 := by
  rw [maskedSample_toNat]
  exact Nat.mul_mod_left _ 4

/-! ### Physical values -/

theorem phys_le_iff {n c : Int} : phys n ≤ c ↔ n ≤ c * 6553600 := by
  unfold phys
  rw [div_le_iff₀ (by norm_num)]
  exact_mod_cast Iff.rfl

theorem le_phys_iff {n c : Int} : (c : Rat) ≤ phys n ↔ c * 6553600 ≤ n := by
  unfold phys
  rw [le_div_iff₀ (by norm_num)]
  exact_mod_cast Iff.rfl

/-- The division by 65536 of the source is absorbed into the scale of R12 (R107). -/
theorem phys_transfer_t (m : Nat) :
    phys (transfer .t m) = -(4685 : Rat) / 100 + (17572 : Rat) / 100 * ((m : Rat) / 65536) := by
  unfold phys transfer
  push_cast
  ring

theorem phys_transfer_h (m : Nat) :
    phys (transfer .h m) = -(6 : Rat) + (125 : Rat) * ((m : Rat) / 65536) := by
  unfold phys transfer
  push_cast
  ring

/-! ### The bits that are ignored -/

theorem outstandingKind_eq_read_iff {p : Phase} : outstandingKind p = some .read ↔ p = .read := by
  cases p <;> simp [outstandingKind]

/-- READ consumes an acknowledged read into the sample of the quantity measured (spec/41_measurement.md R115). -/
theorem fsmNext_rAck {s : State} (hph : s.phase = .read) (hp : s.pend = true) (tick : Bool) (b0 b1 b2 : Byte) :
    fsmNext tick (some (.rAck b0 b1 b2)) s =
      finishOk s.qCur (decodeSample s.qCur b0 b1) (consume (.rAck b0 b1 b2) s) := by
  simp [fsmNext, hph, busNext, hp, onRead]

/-- A cycle with an acknowledged read, its arm starting from what the host's access leaves. -/
theorem runParts_rAck {s : State} (hph : s.phase = .read) (hp : s.pend = true) (host : Option HostAccess) (tick : Bool)
    (b0 b1 b2 : Byte) :
    runParts { rst := false, tick := tick, host := host, rsp := some (.rAck b0 b1 b2) } s =
      .next (cooldownTick tick (finishOk (busyHost host s).qCur (decodeSample (busyHost host s).qCur b0 b1)
        (consume (.rAck b0 b1 b2) (busyHost host s)))) := by
  have hph' : (busyHost host s).phase = .read := (busyHost_phase host s).trans hph
  have hp' : (busyHost host s).pend = true := by rw [busyHost_eq]; exact hp
  rw [runParts_busy_eq _ s (by simp [hph]), fsmNext_rAck hph' hp']

/-- The end of the measurement and the tick see nothing of a consumed response but the sample decoded from it. -/
theorem cooldownTick_finishOk_consume (tick : Bool) (q : Quantity) (n : Word) (r r' : Response) (s : State) :
    cooldownTick tick (finishOk q n (consume r' s)) =
      { cooldownTick tick (finishOk q n (consume r s)) with history := .consumed r' :: s.history } := by
  unfold finishOk
  rw [cooldownTick_eq, cooldownTick_eq, endMeasurement_eq, endMeasurement_eq]
  cases q <;> rfl

/-- A cycle with an acknowledged read, from the cycle whose read differs in ignored bits only (R106). -/
theorem runCycle_rAck_ignored {b1 b1' : Byte} (h : b1 >>> 2 = b1' >>> 2) (host : Option HostAccess) (tick : Bool)
    (b0 b2 b2' : Byte) (s : State) :
    runCycle { rst := false, tick := tick, host := host, rsp := some (.rAck b0 b1' b2') } s =
      chain (runCycle { rst := false, tick := tick, host := host, rsp := some (.rAck b0 b1 b2) } s) fun t =>
        .next { t with history := .consumed (.rAck b0 b1' b2') :: s.history } := by
  have hsame : responseAdmitted s (some (.rAck b0 b1' b2')) = responseAdmitted s (some (.rAck b0 b1 b2)) := rfl
  unfold runCycle
  by_cases hh : hostAdmitted host = true
  · by_cases ha : responseAdmitted s (some (.rAck b0 b1 b2)) = true
    · obtain ⟨hp, hk⟩ := responseAdmitted_some_iff.mp ha
      have hph : s.phase = .read := outstandingKind_eq_read_iff.mp hk
      have hhist : (busyHost host s).history = s.history := by rw [busyHost_eq]
      simp only [hh, hsame, ha, Bool.not_true, Bool.false_eq_true, if_false]
      rw [runParts_rAck hph hp, runParts_rAck hph hp, chain_next, decodeSample_congr _ b0 b1 b1' h, ← hhist]
      exact congrArg _ (cooldownTick_finishOk_consume tick _ _ _ _ _)
    · simp [hh, hsame, ha]
  · simp [hh]

/-- The parameters are checked before the response is looked at, so the same holds of a whole step. -/
theorem step_rAck_ignored {b1 b1' : Byte} (h : b1 >>> 2 = b1' >>> 2) (host : Option HostAccess) (tick : Bool)
    (b0 b2 b2' : Byte) (rest : List CycleInput) (s : State) :
    step { s with
        script := { rst := false, tick := tick, host := host, rsp := some (.rAck b0 b1' b2') } :: rest } =
      chain
        (step { s with
          script := { rst := false, tick := tick, host := host, rsp := some (.rAck b0 b1 b2) } :: rest })
        fun t => .next { t with history := .consumed (.rAck b0 b1' b2') :: s.history } := by
  unfold step stepCycle
  by_cases hcfg : paramsAdmitted s.cfg = true
  · simp only [hcfg, Bool.not_true, Bool.false_eq_true, if_false]
    exact runCycle_rAck_ignored h host tick b0 b2 b2' _
  · simp [hcfg]

end Sys2Proof.Machine
end

section
/-! PROOFS. The obligations about the codec (spec/40_codec.md). -/

namespace Sys2Proof.Proofs

open Sys2Proof.Machine

/-- Settles O5: linear arithmetic on a multiple of 4 up to 65532, the thresholds taken to the units of R12. -/
theorem decodeRangeAndWidth : Obligations.DecodeRangeAndWidth := by
  intro b0 b1 m
  have hle : m ≤ 65532 := maskedSample_le b0 b1
  have hmod : m % 4 = 0 := maskedSample_mod_four b0 b1
  have ht : (decodeSample .t b0 b1).toInt = 17572 * (m : Int) - 307036160 := decodeSample_toInt .t b0 b1
  have hh : (decodeSample .h b0 b1).toInt = 12500 * (m : Int) - 39321600 := decodeSample_toInt .h b0 b1
  have cold := le_phys_iff (n := (decodeSample .t b0 b1).toInt) (c := -40)
  have hot := phys_le_iff (n := (decodeSample .t b0 b1).toInt) (c := 125)
  have dry := le_phys_iff (n := (decodeSample .h b0 b1).toInt) (c := 0)
  have wet := phys_le_iff (n := (decodeSample .h b0 b1).toInt) (c := 100)
  push_cast at cold hot dry wet
  refine ⟨hle, hmod, ht, hh, ?_, ?_, ?_, ?_, ?_, ?_, ?_, ?_, decodeSample_ne_noData .t b0 b1,
    decodeSample_ne_noData .h b0 b1, cold.trans ?_, hot.trans ?_, dry.trans ?_, wet.trans ?_⟩
  all_goals omega

/-- Settles O6: the decoded integer is exact, and so is its scale. -/
theorem decodeIsTransferFunction : Obligations.DecodeIsTransferFunction := by
  intro b0 b1 m
  have hm : (maskedSample b0 b1).toNat = m := maskedSample_toNat b0 b1
  rw [decodeSample_toInt, decodeSample_toInt, hm]
  exact ⟨phys_transfer_t m, phys_transfer_h m⟩

/-- Settles O7: the second run is the first with another record of the response. -/
theorem checksumAndStatusBitsIgnored : Obligations.ChecksumAndStatusBitsIgnored := by
  intro s host tick rest b0 b1 b1' b2 b2' h run
  have hrun : run b1' b2' = chain (run b1 b2) fun t =>
      .next { t with history := .consumed (.rAck b0 b1' b2') :: s.history } :=
    step_rAck_ignored h host tick b0 b2 b2' rest s
  rw [hrun]
  refine ⟨fun t ht => ?_, fun e he => ?_, fun e he => ?_⟩
  · rw [ht, chain_next]
    exact ⟨_, rfl, rfl⟩
  · rw [he, chain_fault]
  · rw [he, chain_refused]

end Sys2Proof.Proofs
end

section
/-! PROOFS. The arms of the measurement engine (spec/41_measurement.md): what a bus phase does by what the port
holds, as an arm and as a whole cycle, the answers of TRIG and READ, and the wait. -/

namespace Sys2Proof.Machine

/-! ### The frames on the port -/

/-- Every sensor frame but 0xE7 means the write of its bytes (spec/30_encoding.md R84, log entry 7). -/
theorem exec_frame {i : Instr} {bytes : List Byte} (h : encode i = .frame bytes) (hi : i ≠ .sensorReadUserreg)
    (s : State) : exec i s = .next (issueWrite bytes s) := by
  cases i <;> cases h
  case sensorReadUserreg => exact absurd rfl hi
  all_goals rfl

/-- Starting a write touches the port and its record, and nothing else (R110). -/
theorem issueWrite_eq (bytes : List Byte) (s : State) : issueWrite bytes s =
    { s with
      pend := (issueWrite bytes s).pend
      issue := (issueWrite bytes s).issue
      history := (issueWrite bytes s).history } := by
  unfold issueWrite
  split <;> rfl

/-! ### The arm of a bus phase -/

theorem fsmNext_of_frame {s : State} {bytes : List Byte} (hf : phaseFrame s = some bytes) (hp : s.pend = false)
    (tick : Bool) (rsp : Option Response) :
    fsmNext tick rsp s = startTxn (.busWrite s.cfg.devAddr bytes) s := by
  have hissue : Host.Outcome.next (fsmNext tick rsp s) = Host.Outcome.next (issueWrite bytes s) :=
    (fsmStep_eq tick rsp s).symm.trans ((fsmStep_of_frame hf hp tick rsp).trans (issueFrame_eq s bytes hf))
  rw [issueWrite_of_free bytes s hp] at hissue
  exact Host.Outcome.next.inj hissue

theorem fsmNext_of_read {s : State} (hph : s.phase = .read) (hp : s.pend = false) (tick : Bool)
    (rsp : Option Response) : fsmNext tick rsp s = startTxn (.busRead s.cfg.devAddr 3) s := by
  simp [fsmNext, hph, busNext, hp]

/-- A transaction that is not answered holds its phase (R110). -/
theorem fsmNext_unanswered {s : State} (hp : s.pend = true) (hk : (outstandingKind s.phase).isSome = true)
    (tick : Bool) : fsmNext tick none s = s := by
  unfold fsmNext
  cases hph : s.phase <;> simp [hph, outstandingKind, busNext, hp] at hk ⊢

theorem fsmNext_trig_answered {s : State} (hph : s.phase = .trig) (hp : s.pend = true) (tick : Bool) (r : Response) :
    fsmNext tick (some r) s = onTrig r (consume r s) := by
  simp [fsmNext, hph, busNext, hp]

theorem fsmNext_read_answered {s : State} (hph : s.phase = .read) (hp : s.pend = true) (tick : Bool) (r : Response) :
    fsmNext tick (some r) s = onRead r (consume r s) := by
  simp [fsmNext, hph, busNext, hp]

/-! ### A whole cycle of a bus phase -/

/-- A transaction started after the host's access of the cycle. -/
theorem startTxn_busyHost (x : Txn) (host : Option HostAccess) (s : State) :
    startTxn x (busyHost host (beginCycle s)) =
      { busyHost host (beginCycle s) with issue := some x, pend := true, history := .issued x :: s.history } := by
  rw [← (busyHost_afterHost host s).history]
  rfl

/-- A response consumed after the host's access of the cycle. -/
theorem consume_busyHost (r : Response) (host : Option HostAccess) (s : State) :
    consume r (busyHost host (beginCycle s)) =
      { busyHost host (beginCycle s) with pend := false, history := .consumed r :: s.history } := by
  rw [← (busyHost_afterHost host s).history]
  rfl

theorem step_of_frame {s : State} {host : Option HostAccess} {tick : Bool} {bytes : List Byte}
    (h : Given s host tick none) (hp : s.pend = false) (hf : phaseFrame s = some bytes) :
    step s = .next (cooldownTick tick (startTxn (.busWrite s.cfg.devAddr bytes) (busyHost host (beginCycle s)))) := by
  have hb : s.phase ≠ .idle := fun hi => by simp [phaseFrame, hi] at hf
  have hsame := busyHost_controlSame host s
  rw [step_busy h rfl hb, fsmNext_of_frame ((phaseFrame_busyHost host s).trans hf) (hsame.pend.trans hp), hsame.cfg]

theorem step_of_read {s : State} {host : Option HostAccess} {tick : Bool} (h : Given s host tick none)
    (hp : s.pend = false) (hph : s.phase = .read) :
    step s = .next (cooldownTick tick (startTxn (.busRead s.cfg.devAddr 3) (busyHost host (beginCycle s)))) := by
  have hsame := busyHost_controlSame host s
  rw [step_busy h rfl (by simp [hph]), fsmNext_of_read (hsame.phase.trans hph) (hsame.pend.trans hp), hsame.cfg]

theorem step_trig_answered {s : State} {host : Option HostAccess} {tick : Bool} {r : Response}
    (h : Given s host tick (some r)) (hph : s.phase = .trig) (hp : s.pend = true) (hr : responseKind r = .write) :
    step s = .next (cooldownTick tick (onTrig r
      { busyHost host (beginCycle s) with pend := false, history := .consumed r :: s.history })) := by
  have hsame := busyHost_controlSame host s
  rw [step_busy h (responseAdmitted_some_iff.mpr ⟨hp, by rw [hph, hr]; rfl⟩) (by simp [hph]),
    fsmNext_trig_answered (hsame.phase.trans hph) (hsame.pend.trans hp), consume_busyHost]

theorem step_read_answered {s : State} {host : Option HostAccess} {tick : Bool} {r : Response}
    (h : Given s host tick (some r)) (hph : s.phase = .read) (hp : s.pend = true) (hr : responseKind r = .read) :
    step s = .next (cooldownTick tick (onRead r
      { busyHost host (beginCycle s) with pend := false, history := .consumed r :: s.history })) := by
  have hsame := busyHost_controlSame host s
  rw [step_busy h (responseAdmitted_some_iff.mpr ⟨hp, by rw [hph, hr]; rfl⟩) (by simp [hph]),
    fsmNext_read_answered (hsame.phase.trans hph) (hsame.pend.trans hp), consume_busyHost]

/-! ### The answers -/

theorem enterDelay_zero {n : BitVec 16} (h : n = 0) (d p : Phase) (s : State) :
    enterDelay n d p s = { s with phase := p } := if_pos h

theorem enterDelay_pos {n : BitVec 16} (h : n ≠ 0) (d p : Phase) (s : State) :
    enterDelay n d p s = { s with dcnt := n, phase := d } := if_neg h

theorem onTrig_wAck_hold {s : State} (hm : s.mode = true) :
    onTrig .wAck s = enterDelay (s.cfg.holdDelay s.qCur) .delay .read { s with nacks := 0 } := if_pos hm

theorem onTrig_wAck_noHold {s : State} (hm : s.mode = false) :
    onTrig .wAck s = { s with nacks := 0, phase := .read } := if_neg (by simp [hm])

theorem onRead_rNack_hold {s : State} (hm : s.mode = true) : onRead .rNack s = finishFail s.qCur .busError s :=
  if_pos hm

theorem onRead_rNack_last {s : State} (hm : s.mode = false)
    (h : (s.cfg.pollMax s.qCur).toNat ≤ s.nacks.toNat + 1) : onRead .rNack s = finishFail s.qCur .timeout s := by
  simp [onRead, hm, h]

theorem onRead_rNack_retry {s : State} (hm : s.mode = false)
    (h : s.nacks.toNat + 1 < (s.cfg.pollMax s.qCur).toNat) :
    onRead .rNack s = enterDelay s.cfg.pollGap .gap .read { s with nacks := s.nacks + 1 } := by
  simp [onRead, hm, Nat.not_le.mpr h]

/-! ### The wait -/

theorem busyHost_dcnt (host : Option HostAccess) (s : State) : (busyHost host s).dcnt = s.dcnt := by
  rw [busyHost_eq]

/-- One cycle of a delay phase: on a tick `dcnt` counts down or, at 0, the phase ends (R112). -/
theorem step_delay {s t : State} {next : Phase} (hd : delayExit s.phase = some next) (hr : (cycleInput s).rst = false)
    (h : step s = .next t) :
    t.phase = (if (cycleInput s).tick = true ∧ s.dcnt = 0 then next else s.phase)
      ∧ t.dcnt = (if (cycleInput s).tick = true ∧ s.dcnt ≠ 0 then s.dcnt - 1 else s.dcnt)
      ∧ t.script = s.script.tail := by
  obtain ⟨u, -, hafter, ⟨hi, -⟩ | ⟨-, hsame, hu, -, rfl⟩⟩ := step_parts h hr
  · simp [hi, delayExit] at hd
  · have hdcnt : u.dcnt = s.dcnt := hu ▸ busyHost_dcnt _ (beginCycle s)
    rw [fsmNext_delay (hsame.phase ▸ hd), waitDelay_eq, cooldownTick_eq, hdcnt, hsame.phase, ← hafter.script]
    exact ⟨rfl, rfl, rfl⟩

/-- A delay phase stands for as many ticks as `dcnt` says. -/
theorem run_delay {l rest : List CycleInput} {s t : State} {next : Phase} (hd : delayExit s.phase = some next)
    (hs : s.script = l ++ rest) (hl : noReset l) (h : core.run l.length s = .next t)
    (hle : ticks l ≤ s.dcnt.toNat) :
    t.phase = s.phase ∧ t.dcnt.toNat = s.dcnt.toNat - ticks l ∧ t.script = rest := by
  induction l generalizing s with
  | nil =>
    cases h
    exact ⟨rfl, rfl, hs⟩
  | cons inp l ih =>
    obtain ⟨u, hu, hrest⟩ := chain_eq_next.mp ((run_succ l.length s).symm.trans h)
    have hin : cycleInput s = inp := cycleInput_cons s inp (l ++ rest) hs
    obtain ⟨hr, hl⟩ := List.forall_mem_cons.mp hl
    obtain ⟨hph, hdc, hsc⟩ := step_delay hd (hin ▸ hr) hu
    have hticks : ticks (inp :: l) = ticks l + (if inp.tick = true then 1 else 0) := List.countP_cons
    rw [hin] at hph hdc
    have hstay : ¬(inp.tick = true ∧ s.dcnt = 0) := by
      rintro ⟨ht, h0⟩
      simp [hticks, ht, h0] at hle
    rw [if_neg hstay] at hph
    have hcount : u.dcnt.toNat = s.dcnt.toNat - (if inp.tick = true then 1 else 0) := by
      rw [hdc]
      cases ht : inp.tick
      · simp
      · have h0 : s.dcnt ≠ 0 := fun h0 => hstay ⟨ht, h0⟩
        simp only [true_and, if_pos h0, if_true]
        bv_omega
    obtain ⟨hph', hdc', hsc'⟩ := ih (hph ▸ hd) (by rw [hsc, hs]; rfl) hl hrest (by omega)
    exact ⟨hph'.trans hph, by omega, hsc'⟩

theorem run_add (m n : Nat) (s : State) : core.run (m + n) s = chain (core.run m s) (core.run n) := by
  induction m generalizing s with
  | zero => rw [Nat.zero_add]; rfl
  | succ m ih =>
    rw [Nat.succ_add, run_succ, run_succ]
    cases step s with
    | next u => exact ih u
    | fault e => rfl
    | refused e => rfl

end Sys2Proof.Machine
end

section
/-! PROOFS. How a measurement ends, and what it does not see of the host (spec/41_measurement.md R121): its arms go
on or consume a response, and none depends on the host's access. -/

namespace Sys2Proof.Machine

/-! ### The end of a measurement -/

theorem Phase.measuring_iff {p : Phase} : p.measuring = true ↔ p = .trig ∨ p = .delay ∨ p = .read ∨ p = .gap := by
  cases p <;> simp [Phase.measuring]

theorem onTrig_port (r : Response) (u : State) : PortSame u (onTrig r u) := by
  cases r with
  | wAck =>
    unfold onTrig
    rw [enterDelay_eq]
    dsimp only
    split <;> exact ⟨rfl, rfl, rfl⟩
  | wNack => exact finishFail_port _ _ u
  | rAck | rNack => exact ⟨rfl, rfl, rfl⟩

/-- Where an update of a measuring state leads: the measurement goes on, or the block is idle. -/
abbrev GoesOnOrIdle (v : State) : Prop := v.phase.measuring = true ∨ v.phase = .idle

theorem endMeasurement_goesOnOrIdle (q : Quantity) (s : State) : GoesOnOrIdle (endMeasurement q s) := by
  unfold endMeasurement
  split
  · exact .inl rfl
  · exact .inr rfl

theorem enterDelay_goesOnOrIdle {d p : Phase} (hd : d.measuring = true) (hp : p.measuring = true) (n : BitVec 16)
    (s : State) : GoesOnOrIdle (enterDelay n d p s) := by
  unfold enterDelay
  split
  · exact .inl hp
  · exact .inl hd

theorem onTrig_goesOnOrIdle (r : Response) {s : State} (hm : s.phase.measuring = true) :
    GoesOnOrIdle (onTrig r s) := by
  cases r with
  | wAck =>
    unfold onTrig
    dsimp only
    split
    · exact enterDelay_goesOnOrIdle rfl rfl _ _
    · exact .inl rfl
  | wNack => exact endMeasurement_goesOnOrIdle _ _
  | rAck | rNack => exact .inl hm

theorem onRead_goesOnOrIdle (r : Response) {s : State} (hm : s.phase.measuring = true) :
    GoesOnOrIdle (onRead r s) := by
  cases r with
  | rAck => exact endMeasurement_goesOnOrIdle _ _
  | rNack =>
    unfold onRead
    dsimp only
    split
    · exact endMeasurement_goesOnOrIdle _ _
    · split
      · exact endMeasurement_goesOnOrIdle _ _
      · exact enterDelay_goesOnOrIdle rfl rfl _ _
  | wAck | wNack => exact .inl hm

/-- An arm that leads from the measuring state `s` to `v` goes on measuring, or consumes a response and ends in IDLE. -/
abbrev EndsByResponseOnly (rsp : Option Response) (s v : State) : Prop :=
  v.phase.measuring = true
    ∨ (v.phase = .idle ∧ s.pend = true ∧ ∃ r, rsp = some r ∧ v.history = .consumed r :: s.history)

/-- A bus phase of a measurement is left for IDLE by consuming a response only. -/
theorem busNext_endsByResponseOnly {req : State} {f : Response → State → State} {rsp : Option Response} {s : State}
    (hm : s.phase.measuring = true) (hreq : req.phase = s.phase)
    (hf : ∀ r u, u.phase.measuring = true → GoesOnOrIdle (f r u)) (hport : ∀ r u, PortSame u (f r u)) :
    EndsByResponseOnly rsp s (busNext req f rsp s) := by
  obtain ⟨-, h⟩ | ⟨-, -, h⟩ | ⟨hp, r, hr, h⟩ := busNext_cases req f rsp s <;> rw [h]
  · exact .inl (hreq ▸ hm)
  · exact .inl hm
  · obtain hgo | hidle := hf r (consume r s) hm
    · exact .inl hgo
    · exact .inr ⟨hidle, hp, r, hr, (hport r (consume r s)).1⟩

theorem waitDelay_measuring {next : Phase} (tick : Bool) {s : State} (hm : s.phase.measuring = true)
    (hn : next.measuring = true) : (waitDelay next tick s).phase.measuring = true := by
  rw [waitDelay_eq]
  dsimp only
  split
  · exact hn
  · exact hm

/-- The arm of a measuring phase goes on measuring, or ends the measurement by consuming a response (R121). -/
theorem fsmNext_endsByResponseOnly (tick : Bool) (rsp : Option Response) {s : State}
    (hm : s.phase.measuring = true) : EndsByResponseOnly rsp s (fsmNext tick rsp s) := by
  have hframe : (issueWrite ((phaseFrame s).getD []) s).phase = s.phase := by rw [issueWrite_eq]
  unfold fsmNext
  obtain hph | hph | hph | hph := Phase.measuring_iff.mp hm <;> rw [hph]
  · exact busNext_endsByResponseOnly hm hframe onTrig_goesOnOrIdle onTrig_port
  · exact .inl (waitDelay_measuring tick hm rfl)
  · exact busNext_endsByResponseOnly hm rfl onRead_goesOnOrIdle onRead_port
  · exact .inl (waitDelay_measuring tick hm rfl)

/-! ### What the arms do not see -/

/-- The state with other values of what a host access writes while the block is busy (spec/20_memory.md R62, R63). -/
def State.withHost (ovr hold : Bool) (d : Option Word) (s : State) : State :=
  { s with ovr := ovr, hold := hold, rdata := d }

theorem busyHost_eq_withHost (host : Option HostAccess) (s : State) : busyHost host s =
    s.withHost (busyHost host s).ovr (busyHost host s).hold (busyHost host s).rdata :=
  busyHost_eq host s

/-- An update that neither reads nor writes what a host access writes while the block is busy. -/
def HostBlind (f : State → State) : Prop :=
  ∀ (ovr hold : Bool) (d : Option Word), Function.Commute f (State.withHost ovr hold d)

theorem ite_withHost {c : Prop} [Decidable c] {ovr hold : Bool} {d : Option Word} {a a' b b' : State}
    (ha : a' = a.withHost ovr hold d) (hb : b' = b.withHost ovr hold d) :
    (if c then a' else b') = (if c then a else b).withHost ovr hold d := by
  rw [ha, hb, apply_ite (State.withHost ovr hold d)]

theorem enterDelay_hostBlind (n : BitVec 16) (p p' : Phase) : HostBlind (enterDelay n p p') :=
  fun _ _ _ _ => ite_withHost rfl rfl

theorem waitDelay_hostBlind (p : Phase) (tick : Bool) : HostBlind (waitDelay p tick) :=
  fun _ _ _ _ => ite_withHost (ite_withHost rfl rfl) rfl

theorem cooldownTick_hostBlind (tick : Bool) : HostBlind (cooldownTick tick) :=
  fun _ _ _ _ => ite_withHost rfl rfl

theorem issueWrite_hostBlind (bytes : List Byte) : HostBlind (issueWrite bytes) :=
  fun _ _ _ _ => ite_withHost rfl rfl

theorem endMeasurement_hostBlind (q : Quantity) : HostBlind (endMeasurement q) :=
  fun _ _ _ _ => ite_withHost rfl rfl

theorem finishOk_hostBlind (q : Quantity) (n : Word) : HostBlind (finishOk q n) := fun ovr hold d s => by
  have hend := endMeasurement_hostBlind q ovr hold d (arm q (storeSample q n s))
  cases q <;> exact hend

theorem finishFail_hostBlind (q : Quantity) (e : ErrCode) : HostBlind (finishFail q e) := fun ovr hold d s => by
  have hend := endMeasurement_hostBlind q ovr hold d (recordErr q e s)
  cases q <;> exact hend

theorem onTrig_hostBlind : ∀ r, HostBlind (onTrig r)
  | .wAck => fun ovr hold d s =>
      ite_withHost (enterDelay_hostBlind _ _ _ ovr hold d { s with nacks := 0 }) rfl
  | .wNack => fun ovr hold d s => finishFail_hostBlind _ _ ovr hold d s
  | .rAck _ _ _ | .rNack => fun _ _ _ _ => rfl

theorem onRead_hostBlind : ∀ r, HostBlind (onRead r)
  | .rAck _ _ _ => fun ovr hold d s => finishOk_hostBlind _ _ ovr hold d s
  | .rNack => fun ovr hold d s =>
      ite_withHost (finishFail_hostBlind _ _ ovr hold d s) (ite_withHost (finishFail_hostBlind _ _ ovr hold d s)
        (enterDelay_hostBlind _ _ _ ovr hold d { s with nacks := s.nacks + 1 }))
  | .wAck | .wNack => fun _ _ _ _ => rfl

theorem busNext_hostBlind {req : State → State} {f : Response → State → State} (hreq : HostBlind req)
    (hf : ∀ r, HostBlind (f r)) (rsp : Option Response) : HostBlind fun s => busNext (req s) f rsp s :=
  fun ovr hold d s => by
    refine ite_withHost ?_ (hreq ovr hold d s)
    cases rsp with
    | none => rfl
    | some r => exact hf r ovr hold d (consume r s)

/-- The arm of a measuring phase does not see the host's access. -/
theorem fsmNext_withHost (tick : Bool) (rsp : Option Response) {s : State} (hm : s.phase.measuring = true)
    (ovr hold : Bool) (d : Option Word) :
    fsmNext tick rsp (s.withHost ovr hold d) = (fsmNext tick rsp s).withHost ovr hold d := by
  have hframe := issueWrite_hostBlind ((phaseFrame s).getD [])
  have hread : HostBlind (startTxn (.busRead s.cfg.devAddr 3)) := fun _ _ _ _ => rfl
  have hsame : (s.withHost ovr hold d).phase = s.phase := rfl
  unfold fsmNext
  rw [hsame]
  obtain hph | hph | hph | hph := Phase.measuring_iff.mp hm <;> rw [hph]
  · exact busNext_hostBlind hframe onTrig_hostBlind rsp ovr hold d s
  · exact waitDelay_hostBlind _ tick ovr hold d s
  · exact busNext_hostBlind hread onRead_hostBlind rsp ovr hold d s
  · exact waitDelay_hostBlind _ tick ovr hold d s

end Sys2Proof.Machine
end

section
/-! PROOFS. How many transactions a measurement has left (spec/41_measurement.md R116, R119, R120): each one started
takes one from the bound, and no answer and no wait adds one. -/

namespace Sys2Proof.Machine

/-! ### The bound by the phase -/

/-- The transactions set aside for the humidity measurement that follows (spec/43_commands.md R164). -/
def followUp (s : State) : Nat := if s.thenH then 1 + readBound s .h else 0

theorem txnBudget_trig {s : State} (h : s.phase = .trig) :
    txnBudget s = 1 + readBound s s.qCur - s.pend.toNat + followUp s := by
  simp [txnBudget, h, followUp, Bool.toNat, Bool.cond_eq_ite]

theorem txnBudget_delay {s : State} (h : s.phase = .delay) : txnBudget s = readBound s s.qCur + followUp s := by
  simp [txnBudget, h, followUp]

theorem txnBudget_read_gap {s : State} (h : s.phase = .read ∨ s.phase = .gap) :
    txnBudget s =
      readBound s s.qCur - (if s.mode then 0 else s.nacks.toNat) - s.pend.toNat + followUp s := by
  obtain h | h := h <;> simp [txnBudget, h, followUp, Bool.toNat, Bool.cond_eq_ite]

/-- The bound reads control fields only. -/
theorem ControlSame.txnBudget {s u : State} (h : ControlSame s u) : txnBudget u = txnBudget s := by
  simp only [Machine.txnBudget, readBound, h.phase, h.pend, h.qCur, h.thenH, h.mode, h.nacks, h.cfg]

/-! ### The arms of the measuring phases -/

/-- Starting a transaction takes one from the bound: in READ an attempt is left, since the refusals counted are below
the bound (spec/10_state.md R45 e). -/
theorem startTxn_txnBudget {s : State} (hc : s.Control) (hp : s.pend = false)
    (hph : s.phase = .trig ∨ s.phase = .read) (x : Txn) : txnBudget (startTxn x s) + 1 = txnBudget s := by
  obtain hph | hph := hph
  · rw [txnBudget_trig hph, txnBudget_trig (show (startTxn x s).phase = .trig from hph), hp]
    show 1 + readBound s s.qCur - 1 + followUp s + 1 = 1 + readBound s s.qCur - 0 + followUp s
    omega
  · rw [txnBudget_read_gap (.inl hph), txnBudget_read_gap (.inl (show (startTxn x s).phase = .read from hph)), hp]
    show readBound s s.qCur - (if s.mode then 0 else s.nacks.toNat) - 1 + followUp s + 1
      = readBound s s.qCur - (if s.mode then 0 else s.nacks.toNat) - 0 + followUp s
    have hleft : (if s.mode then 0 else s.nacks.toNat) < readBound s s.qCur := by
      unfold readBound
      cases hmode : s.mode
      · simpa using hc.nacks (.inl hph) hmode
      · simp
    omega

/-- What follows a measurement fits the transactions set aside for it. -/
theorem endMeasurement_txnBudget (q : Quantity) {s : State} (hp : s.pend = false) :
    txnBudget (endMeasurement q s) ≤ followUp s := by
  unfold endMeasurement
  split
  · rename_i h
    rw [txnBudget_trig rfl]
    simp [followUp, readBound, h.2, hp]
  · simp [txnBudget]

theorem finishOk_txnBudget (q : Quantity) (n : Word) {s : State} (hp : s.pend = false) :
    txnBudget (finishOk q n s) ≤ followUp s := by
  cases q <;> exact endMeasurement_txnBudget _ hp

theorem finishFail_txnBudget (q : Quantity) (e : ErrCode) {s : State} (hp : s.pend = false) :
    txnBudget (finishFail q e s) ≤ followUp s := by
  cases q <;> exact endMeasurement_txnBudget _ hp

/-- An answered trigger leaves at most the reads of the quantity and what follows. -/
theorem onTrig_txnBudget {r : Response} (hr : responseKind r = .write) {s : State} (hp : s.pend = false) :
    txnBudget (onTrig r s) ≤ readBound s s.qCur + followUp s := by
  cases r with
  | wAck =>
    cases hm : s.mode
    · rw [onTrig_wAck_noHold hm, txnBudget_read_gap (.inl rfl)]
      exact Nat.add_le_add_right (by simp [hm, hp, readBound]) _
    · rw [onTrig_wAck_hold hm]
      unfold enterDelay
      split
      · rw [txnBudget_read_gap (.inl rfl)]
        exact Nat.add_le_add_right (by simp [hm, hp, readBound]) _
      · rw [txnBudget_delay rfl]
        exact le_rfl
  | wNack => exact (finishFail_txnBudget _ _ hp).trans (Nat.le_add_left _ _)
  | rAck | rNack => cases hr

/-- An answered read leaves what follows, or a retry, which its refusal has paid for (R116). -/
theorem onRead_txnBudget {r : Response} (hr : responseKind r = .read) {s : State} (hp : s.pend = false) :
    txnBudget (onRead r s) ≤ readBound s s.qCur - (if s.mode then 0 else s.nacks.toNat) - 1 + followUp s := by
  cases r with
  | rAck => exact (finishOk_txnBudget _ _ hp).trans (Nat.le_add_left _ _)
  | rNack =>
    cases hm : s.mode
    · obtain hle | hlt := Nat.lt_or_ge (s.nacks.toNat + 1) (s.cfg.pollMax s.qCur).toNat |>.symm
      · rw [onRead_rNack_last hm hle]
        exact (finishFail_txnBudget _ _ hp).trans (Nat.le_add_left _ _)
      · have hcount : (s.nacks + 1).toNat = s.nacks.toNat + 1 := by
          have := (s.cfg.pollMax s.qCur).isLt
          bv_omega
        rw [onRead_rNack_retry hm hlt, enterDelay_eq, txnBudget_read_gap (by dsimp only; split <;> simp)]
        refine Nat.add_le_add_right ?_ _
        simp only [readBound, hm, hp, hcount, Bool.false_eq_true, if_false, Bool.toNat_false]
        omega
    · rw [onRead_rNack_hold hm]
      exact (finishFail_txnBudget _ _ hp).trans (Nat.le_add_left _ _)
  | wAck | wNack => cases hr

/-- No wait raises the bound. -/
theorem waitDelay_txnBudget {s : State} (hph : s.phase = .delay ∨ s.phase = .gap) (tick : Bool) :
    txnBudget (waitDelay .read tick s) ≤ txnBudget s := by
  unfold waitDelay
  split
  · split
    · rw [txnBudget_read_gap (.inl rfl)]
      obtain hph | hph := hph
      · rw [txnBudget_delay hph]
        exact Nat.add_le_add_right ((Nat.sub_le _ _).trans (Nat.sub_le _ _)) _
      · rw [txnBudget_read_gap (.inr hph)]
        exact le_rfl
    · exact le_rfl
  · exact le_rfl

/-- The step from `s` to `v` takes a transaction it starts from the bound, and never raises the bound. -/
abbrev BudgetFalls (s v : State) : Prop :=
  txnBudget v + (if v.issue.isSome = true then 1 else 0) ≤ txnBudget s

theorem budgetFalls_of_le {s v : State} (hi : v.issue = none) (h : txnBudget v ≤ txnBudget s) : BudgetFalls s v := by
  simpa [hi] using h

/-- A bus phase issues, which takes one from the bound, or holds, or answers. -/
theorem busNext_budgetFalls {req : State} {f : Response → State → State} {rsp : Option Response} {s : State}
    (hi : s.issue = none) (hreq : s.pend = false → BudgetFalls s req) (hport : ∀ r u, PortSame u (f r u))
    (hf : ∀ r, s.pend = true → rsp = some r → txnBudget (f r (consume r s)) ≤ txnBudget s) :
    BudgetFalls s (busNext req f rsp s) := by
  obtain ⟨hp, h⟩ | ⟨-, -, h⟩ | ⟨hp, r, hr, h⟩ := busNext_cases req f rsp s <;> rw [h]
  · exact hreq hp
  · exact budgetFalls_of_le hi le_rfl
  · obtain ⟨-, hissue, -⟩ := hport r (consume r s)
    exact budgetFalls_of_le (hissue.trans hi) (hf r hp hr)

/-- The arm of a measuring phase lowers the bound by one if it starts a transaction, and never raises it
(R119, R120). -/
theorem fsmNext_budgetFalls (tick : Bool) {rsp : Option Response} {s : State} (hc : s.Control)
    (hm : s.phase.measuring = true) (ha : responseAdmitted s rsp = true) (hi : s.issue = none) :
    BudgetFalls s (fsmNext tick rsp s) := by
  have hkind : ∀ r, rsp = some r → outstandingKind s.phase = some (responseKind r) :=
    fun r hr => (responseAdmitted_some_iff.mp (hr ▸ ha)).2
  have hwait : ∀ {v : State}, v = waitDelay .read tick s → s.phase = .delay ∨ s.phase = .gap → BudgetFalls s v := by
    rintro _ rfl hph
    exact budgetFalls_of_le (by rw [waitDelay_eq]; exact hi) (waitDelay_txnBudget hph tick)
  unfold fsmNext
  obtain hph | hph | hph | hph := Phase.measuring_iff.mp hm <;> rw [hph] <;> rw [hph] at hkind
  · refine busNext_budgetFalls hi (fun hp => ?_) onTrig_port fun r hp hr => ?_
    · rw [issueWrite_of_free _ s hp]
      exact (startTxn_txnBudget hc hp (.inl hph) _).le
    · refine (onTrig_txnBudget (Option.some.inj (hkind r hr)).symm rfl).trans ?_
      rw [txnBudget_trig hph, hp]
      show readBound s s.qCur + followUp s ≤ 1 + readBound s s.qCur - 1 + followUp s
      omega
  · exact hwait rfl (.inl hph)
  · refine busNext_budgetFalls hi (fun hp => ?_) onRead_port fun r hp hr => ?_
    · exact (startTxn_txnBudget hc hp (.inr hph) _).le
    · refine (onRead_txnBudget (Option.some.inj (hkind r hr)).symm rfl).trans ?_
      rw [txnBudget_read_gap (.inl hph), hp]
      exact le_rfl
  · exact hwait rfl (.inr hph)

end Sys2Proof.Machine
end

section
/-! PROOFS. The obligations about the measurement engine (spec/41_measurement.md). -/

namespace Sys2Proof.Proofs

open Sys2Proof.Machine

/-! ### The transactions of a measurement -/

/-- Settles O38: the arm alone moves the bound, and it starts a transaction or does not. -/
theorem measurementBudgetFalls : Obligations.MeasurementBudgetFalls := by
  rintro s t hinv hm hr h -
  obtain ⟨-, -, hc⟩ := State.inv_iff.mp hinv
  obtain ⟨u, hu, hafter, ⟨hi, -⟩ | ⟨-, hsame, -, hadm, rfl⟩⟩ := step_parts h hr
  · simp [hi, Phase.measuring] at hm
  · obtain ⟨-, hissue, -⟩ := cooldownTick_port (cycleInput s).tick
      (fsmNext (cycleInput s).tick (cycleInput s).rsp u)
    rw [(cooldownTick_controlSame _ _).txnBudget, hissue, ← hsame.txnBudget]
    exact fsmNext_budgetFalls _ (hostStep_keeps_control hc hu) (hsame.phase ▸ hm) hadm hafter.issue

/-! ### Every cycle of a measurement -/

/-- Settles O37: one cycle is the arm of a delay phase between the host's access and the tick, and a run counts its
ticks. -/
theorem delayLastsItsTicks : Obligations.DelayLastsItsTicks := by
  refine ⟨?_, fun s t l rest next hd hs hl h => ⟨fun hle => ?_, fun l' inp hl' hticks htick => ?_⟩⟩
  · intro s host tick next hgiven hd u
    have hph : u.phase = s.phase := (busyHost_controlSame host s).phase
    have hdcnt : u.dcnt = s.dcnt := busyHost_dcnt host (beginCycle s)
    have hb : s.phase ≠ .idle := fun hi => by simp [hi, delayExit] at hd
    rw [step_busy hgiven rfl hb, fsmNext_delay (hph ▸ hd), waitDelay, hdcnt]
  · obtain ⟨hph, hdc, -⟩ := run_delay hd hs hl h hle
    exact ⟨hph, hdc⟩
  · subst hl'
    rw [List.length_append, run_add] at h
    obtain ⟨u, hu, hlast⟩ := chain_eq_next.mp h
    obtain ⟨v, hv, ht⟩ := chain_eq_next.mp ((run_succ 0 u).symm.trans hlast)
    cases ht
    obtain ⟨hl', hinp⟩ := List.forall_mem_append.mp hl
    obtain ⟨hph, hdc, hsc⟩ := run_delay hd (by rw [hs, List.append_assoc]) hl' hu hticks.le
    have hin : cycleInput u = inp := cycleInput_cons u inp rest hsc
    have hzero : u.dcnt = 0 := BitVec.eq_of_toNat_eq (by simpa [hticks] using hdc)
    obtain ⟨hnext, -⟩ := step_delay (hph ▸ hd) (hin ▸ hinp inp (List.mem_singleton_self inp)) hv
    rwa [hin, if_pos ⟨htick, hzero⟩] at hnext

/-- Settles O39: the arm of a measuring phase does not see the host's access, keeps the mode, and leaves the measurement
by a consumed response only. -/
theorem noCancellation : Obligations.NoCancellation := by
  intro s t host tick rsp rest cycle hm h
  obtain ⟨u, -, hafter, ⟨hi, -⟩ | ⟨hb, hsame, hu, hadm, ht⟩⟩ := step_parts h rfl
  · simp [show s.phase = .idle from hi, Phase.measuring] at hm
  change t = cooldownTick tick (fsmNext tick rsp u) at ht
  have hmu : u.phase.measuring = true := hsame.phase ▸ hm
  obtain ⟨htmode, -⟩ := tickedArm_frame tick rsp u
  obtain ⟨hthist, -⟩ := cooldownTick_port tick (fsmNext tick rsp u)
  refine ⟨?_, ?_, ?_⟩
  · rw [ht, htmode]
    exact hsame.mode
  · rw [ht, (cooldownTick_controlSame _ _).phase, hthist]
    obtain hgo | ⟨hidle, hp, r, hr, hh⟩ := fsmNext_endsByResponseOnly tick rsp hmu
    · exact .inl hgo
    · exact .inr ⟨hidle, hsame.pend.symm.trans hp, r, hr, hh.trans (by rw [hafter.history])⟩
  · obtain ⟨hcfg, -⟩ := step_shape h
    have hadm' : responseAdmitted (cycle none) rsp = true := by
      rw [hu, busyHost_responseAdmitted] at hadm
      cases rsp <;> exact hadm
    refine ⟨_, step_busy (s := cycle none) ⟨hcfg, rfl, rfl⟩ hadm' hb, ?_⟩
    rw [ht, hu, busyHost_eq_withHost, fsmNext_withHost tick rsp (s := beginCycle (cycle host)) hm,
      cooldownTick_hostBlind]
    rfl

/-! ### The frames -/

/-- Settles O51: a frame that answers is the start of its write, and no register shows the port. -/
theorem sensorFrameFrame : Obligations.SensorFrameFrame := by
  intro i s t bytes hi h
  have hne : i ≠ .sensorReadUserreg := by
    rintro rfl
    cases h
  rw [exec_frame hi hne s] at h
  cases h
  refine ⟨issueWrite_eq bytes s, issueWrite_of_pend bytes s, fun offset => ?_⟩
  rw [issueWrite_eq, regRead_eq, regRead_eq]
  rfl

/-- Settles O24: each frame is the write of its bytes, started on a free port. -/
theorem framesAreIssued : Obligations.FramesAreIssued := by
  intro s code hp issued
  have hstart : ∀ (i : Instr) (bytes : List Byte), encode i = .frame bytes → i ≠ .sensorReadUserreg →
      exec i s = .next (issued bytes) := by
    intro i bytes hi hne
    rw [exec_frame hi hne, issueWrite_of_free bytes s hp]
    rfl
  exact ⟨hstart _ _ rfl nofun, hstart _ _ rfl nofun, hstart _ _ rfl nofun, hstart _ _ rfl nofun,
    hstart _ _ rfl nofun, hstart _ _ rfl nofun⟩

/-! ### The bus phases -/

/-- Settles O28: each of the four phases that write has its frame, and READ has its read. -/
theorem busPhaseIssues : Obligations.BusPhaseIssues := by
  intro s host tick hgiven hp started
  have hwrite : ∀ bytes, phaseFrame s = some bytes → step s = .next (started (.busWrite s.cfg.devAddr bytes)) := by
    intro bytes hf
    rw [step_of_frame hgiven hp hf, startTxn_busyHost]
  refine ⟨fun hph => hwrite _ ?_, fun hph => hwrite _ ?_, fun hph => hwrite _ ?_, fun hph hk => hwrite _ ?_,
    fun hph hk => hwrite _ ?_, fun hph => ?_⟩
  · simp [phaseFrame, hph, resetFrame]
  · simp [phaseFrame, hph, encodeUserRegister]
  · simp [phaseFrame, hph, encodeTrigger]
  · simp [phaseFrame, hph, hk, encodeUserRegister]
  · simp [phaseFrame, hph, hk, resetFrame]
  · rw [step_of_read hgiven hp hph, startTxn_busyHost]

/-- Settles O29: the arm of a bus phase that waits for its answer does nothing. -/
theorem busPhaseHolds : Obligations.BusPhaseHolds := by
  intro s host tick hgiven hp hk
  have hsame := busyHost_controlSame host s
  have hb : s.phase ≠ .idle := fun hi => by simp [hi, outstandingKind] at hk
  rw [step_busy hgiven rfl hb, fsmNext_unanswered (hsame.pend.trans hp) (hsame.phase ▸ hk)]

/-- Settles O30: the answers of TRIG, by the mode and the hold delay. -/
theorem triggerAnswered : Obligations.TriggerAnswered := by
  intro s host tick r hgiven hph hp s0 n
  have hsame := busyHost_controlSame host s
  have hmode : s0.mode = s.mode := hsame.mode
  have hdelay : s0.cfg.holdDelay s0.qCur = n := by
    show (busyHost host (beginCycle s)).cfg.holdDelay (busyHost host (beginCycle s)).qCur = n
    rw [hsame.cfg, hsame.qCur]
  have hstep : responseKind r = .write → step s = .next (cooldownTick tick (onTrig r s0)) :=
    step_trig_answered hgiven hph hp
  refine ⟨?_, ?_, ?_, ?_⟩
  · rintro rfl hm hn
    rw [hstep rfl, onTrig_wAck_hold (hmode.trans hm), hdelay, enterDelay_pos hn]
  · rintro rfl hm hn
    rw [hstep rfl, onTrig_wAck_hold (hmode.trans hm), hdelay, enterDelay_zero hn]
  · rintro rfl hm
    rw [hstep rfl, onTrig_wAck_noHold (hmode.trans hm)]
  · rintro rfl
    rw [hstep rfl, ← hsame.qCur]
    rfl

/-- Settles O31: READ ends the measurement with the sample decoded. -/
theorem readAcknowledged : Obligations.ReadAcknowledged := by
  intro s host tick b0 b1 b2 hgiven hph hp
  rw [step_read_answered hgiven hph hp rfl, ← (busyHost_controlSame host s).qCur]
  rfl

/-- Settles O32: the answers of READ to a refusal, by the mode, the refusals counted and the gap. -/
theorem readNotAcknowledged : Obligations.ReadNotAcknowledged := by
  intro s host tick hgiven hph hp s0 n bound
  have hsame := busyHost_controlSame host s
  have hmode : s0.mode = s.mode := hsame.mode
  have hcur : s0.qCur = s.qCur := hsame.qCur
  have hcfg : s0.cfg = s.cfg := hsame.cfg
  have hnacks : s0.nacks = s.nacks := hsame.nacks
  have hn : s.nacks + 1 = BitVec.ofNat 8 n := by bv_omega
  have hstep : step s = .next (cooldownTick tick (onRead .rNack s0)) := step_read_answered hgiven hph hp rfl
  have hretry : s.mode = false → n < bound → onRead .rNack s0 =
      enterDelay s.cfg.pollGap .gap .read { s0 with nacks := BitVec.ofNat 8 n } := by
    intro hm hlt
    rw [onRead_rNack_retry (hmode.trans hm) (by rwa [hcur, hcfg, hnacks]), hcfg, hnacks, hn]
  refine ⟨fun hm => ?_, fun hm hle => ?_, fun hm hlt hgap => ?_, fun hm hlt hgap => ?_⟩
  · rw [hstep, onRead_rNack_hold (hmode.trans hm), hcur]
  · rw [hstep, onRead_rNack_last (hmode.trans hm) (by rwa [hcur, hcfg, hnacks]), hcur]
  · rw [hstep, hretry hm hlt, enterDelay_pos hgap]
  · rw [hstep, hretry hm hlt, enterDelay_zero hgap]

/-- Settles O33: only a temperature measurement goes on, and only with humidity to follow. -/
theorem finishWrites : Obligations.FinishWrites := by
  intro s n e okChannel next
  have hnext : ∀ u : State, u.thenH = s.thenH → u.qCur = s.qCur → endMeasurement .t u = next u := by
    intro u hth hcur
    rw [endMeasurement_eq, hth, hcur]
    cases h : s.thenH <;> simp [next, h]
  have hidle : ∀ u : State, endMeasurement .h u = { u with phase := .idle } := fun u => if_neg nofun
  exact ⟨hnext _ rfl rfl, hnext _ rfl rfl, hidle _, hidle _⟩

end Sys2Proof.Proofs
end

section
/-! PROOFS. The cooldown timers (spec/42_cooldown.md): a tick on one timer, what a whole cycle does to a timer, and the
run of a timer that is COOLING. -/

namespace Sys2Proof.Machine

/-! ### One tick -/

/-- `Arm` beats the tick (spec/42_cooldown.md R142). -/
theorem tickChannel_of_armed {c : Channel} (h : c.armedNow = true) : tickChannel c = c := by
  simp [tickChannel, h]

theorem tickChannel_of_unarmed {c : Channel} (h : c.armedNow = false) : tickChannel c =
    if c.safe = true then c else if c.cnt = 0 then { c with safe := true } else { c with cnt := c.cnt - 1 } := by
  simp [tickChannel, h]

/-- The tick on a timer that is not armed in this cycle (R141): SAFE at 0, else the count goes down. At 0
the subtraction of naturals stays at 0, as the counter does. -/
theorem cooldownTick_timer {s : State} {q : Quantity} (h : (s.chan q).armedNow = false) (tick : Bool) :
    ((cooldownTick tick s).chan q).safe = ((s.chan q).safe || (tick && (s.chan q).cnt == 0))
      ∧ ((cooldownTick tick s).chan q).cnt.toNat =
          (s.chan q).cnt.toNat - (if tick = true ∧ (s.chan q).safe = false then 1 else 0) := by
  rw [cooldownTick_chan]
  cases tick
  · simp
  · rw [if_pos rfl, tickChannel_of_unarmed h]
    split
    · rename_i hsafe
      simp [hsafe]
    · rename_i hcool
      split
      · rename_i hzero
        simp [hzero]
      · rename_i hpos
        refine ⟨by simpa [hcool] using hpos, ?_⟩
        rw [if_pos ⟨rfl, by simpa using hcool⟩]
        bv_omega

/-! ### One cycle -/

/-- What the host's access leaves of one quantity while the block is busy. -/
theorem busyHost_chan (host : Option HostAccess) (s : State) (q : Quantity) :
    (busyHost host (beginCycle s)).chan q = { s.chan q with armedNow := false } := by
  rw [busyHost_eq]
  cases q <;> rfl

/-- A cycle without reset gives a timer its tick, or stores an acknowledged sample of its quantity (R140, R141). -/
theorem step_timer {s t : State} (h : step s = .next t) (hr : (cycleInput s).rst = false) (q : Quantity) :
    ((t.chan q).safe = ((s.chan q).safe || ((cycleInput s).tick && (s.chan q).cnt == 0))
        ∧ (t.chan q).cnt.toNat = (s.chan q).cnt.toNat
            - (if (cycleInput s).tick = true ∧ (s.chan q).safe = false then 1 else 0))
      ∨ (s.phase = .read ∧ s.pend = true ∧ s.qCur = q
          ∧ ∃ b0 b1 b2, (cycleInput s).rsp = some (.rAck b0 b1 b2)) := by
  obtain ⟨u, -, hafter, hcase⟩ := step_parts h hr
  obtain ⟨fresh, err, hu⟩ := hafter.chan q
  obtain ⟨-, rfl⟩ | ⟨-, hsame, -, -, rfl⟩ := hcase
  · have htick := cooldownTick_timer (s := u) (q := q) (by rw [hu]) (cycleInput s).tick
    rw [hafter.safe, hafter.cnt] at htick
    exact .inl htick
  · obtain ⟨e, hv⟩ | ⟨hph, hp, hcur, b0, b1, b2, hrsp, -⟩ :=
      fsmNext_chan (cycleInput s).tick (cycleInput s).rsp u q
    · rw [hu] at hv
      have htick := cooldownTick_timer (by rw [hv]) (cycleInput s).tick
      rw [hv] at htick
      exact .inl htick
    · exact .inr ⟨hsame.phase.symm.trans hph, hsame.pend.symm.trans hp, hsame.qCur.symm.trans hcur, b0, b1, b2, hrsp⟩

theorem resetBlock_chan (s : State) (q : Quantity) : (resetBlock s).chan q = .reset := by
  cases q <;> rfl

/-- A timer that is COOLING only counts: the quantity measured is SAFE, so no sample re-arms this one (R140). -/
theorem step_cooling {s t : State} {q : Quantity} (hinv : s.Inv) (hcool : (s.chan q).safe = false)
    (hr : (cycleInput s).rst = false) (h : step s = .next t) :
    (t.chan q).safe = ((cycleInput s).tick && (s.chan q).cnt == 0)
      ∧ (t.chan q).cnt.toNat = (s.chan q).cnt.toNat - (if (cycleInput s).tick = true then 1 else 0) := by
  obtain ⟨-, -, hc⟩ := State.inv_iff.mp hinv
  obtain ⟨hsafe, hcnt⟩ | ⟨hph, -, rfl, -⟩ := step_timer h hr q
  · simp [hsafe, hcnt, hcool]
  · have hcur : (s.chan s.qCur).safe = true := hc.current (by rw [hph]; rfl)
    simp [hcool] at hcur

/-! ### A run -/

/-- Up to its count of ticks a COOLING timer stays COOLING and counts each of them (R144). -/
theorem run_cooling {l rest : List CycleInput} {s t : State} {q : Quantity} (hinv : s.Inv)
    (hcool : (s.chan q).safe = false) (hs : s.script = l ++ rest) (hl : noReset l)
    (h : core.run l.length s = .next t) (hle : ticks l ≤ (s.chan q).cnt.toNat) :
    (t.chan q).safe = false ∧ (t.chan q).cnt.toNat = (s.chan q).cnt.toNat - ticks l ∧ t.script = rest := by
  induction l generalizing s with
  | nil =>
    cases h
    exact ⟨hcool, rfl, hs⟩
  | cons inp l ih =>
    obtain ⟨u, hu, hrest⟩ := chain_eq_next.mp ((run_succ l.length s).symm.trans h)
    have hin : cycleInput s = inp := cycleInput_cons s inp (l ++ rest) hs
    obtain ⟨hr, hl⟩ := List.forall_mem_cons.mp hl
    obtain ⟨hsafe, hcnt⟩ := step_cooling hinv hcool (hin ▸ hr) hu
    obtain ⟨-, hscript, -⟩ := Proofs.parametersNeverChange s u hu
    have hticks : ticks (inp :: l) = ticks l + (if inp.tick = true then 1 else 0) := List.countP_cons
    rw [hin] at hsafe hcnt
    have hcool' : (u.chan q).safe = false := by
      rw [hsafe, Bool.and_eq_false_imp]
      intro htick
      rw [hticks, if_pos htick] at hle
      exact beq_false_of_ne fun hzero => by simp [hzero] at hle
    obtain ⟨hsafe', hcnt', hscript'⟩ :=
      ih (step_keeps_inv hinv hu) hcool' (by rw [hscript, hs]; rfl) hl hrest (by omega)
    exact ⟨hsafe', by omega, hscript'⟩

/-- The last cycle of a run. -/
theorem run_concat {l : List CycleInput} {inp : CycleInput} {s t : State} (h : core.run (l ++ [inp]).length s = .next t) :
    ∃ u, core.run l.length s = .next u ∧ step u = .next t := by
  rw [List.length_append, run_add] at h
  obtain ⟨u, hu, hlast⟩ := chain_eq_next.mp h
  obtain ⟨v, hv, ht⟩ := chain_eq_next.mp ((run_succ 0 u).symm.trans hlast)
  cases ht
  exact ⟨u, hu, hv⟩

end Sys2Proof.Machine
end

section
/-! PROOFS. The obligations about the cooldown timers (spec/42_cooldown.md). -/

namespace Sys2Proof.Proofs

open Sys2Proof.Machine

/-- Settles O42: a COOLING timer only counts, and the tick that finds it at 0 makes it SAFE. -/
theorem cooldownWindowLength : Obligations.CooldownWindowLength := by
  refine fun s t q l rest hinv hcool hs hl h => ⟨fun hle => ?_, fun l' inp hl' hticks htick => ?_⟩
  · obtain ⟨hsafe, hcnt, -⟩ := run_cooling hinv hcool hs hl h hle
    exact ⟨hsafe, hcnt⟩
  · subst hl'
    obtain ⟨u, hu, hlast⟩ := run_concat h
    obtain ⟨hl', hinp⟩ := List.forall_mem_append.mp hl
    obtain ⟨hcool', hcnt, hscript⟩ :=
      run_cooling hinv hcool (by rw [hs, List.append_assoc]) hl' hu hticks.le
    have hin : cycleInput u = inp := cycleInput_cons u inp rest hscript
    have hzero : (u.chan q).cnt = 0 := BitVec.eq_of_toNat_eq (by simpa [hticks] using hcnt)
    obtain ⟨hsafe, -⟩ := step_cooling (run_keeps_inv hinv hu) hcool'
      (hin ▸ hinp inp (List.mem_singleton_self inp)) hlast
    simp [hsafe, hin, htick, hzero]

/-- Settles O43: a reset leaves every timer SAFE, and so does a cycle that stores no sample of its quantity. -/
theorem safeEndsOnlyBySample : Obligations.SafeEndsOnlyBySample := by
  intro s t q h hsafe hcool
  cases hr : (cycleInput s).rst
  · obtain ⟨hkept, -⟩ | ⟨hph, hp, hcur, hrsp⟩ := step_timer h hr q
    · simp [hkept, hsafe] at hcool
    · exact ⟨hph, hp, hcur, rfl, hrsp⟩
  · rw [step_of_rst h hr, resetBlock_chan] at hcool
    cases hcool

/-- Settles O40: the cases of `tickChannel`. -/
theorem cooldownTickRule : Obligations.CooldownTickRule := by
  refine fun s => ⟨rfl, rfl, fun c => ⟨?_, fun harm hcool hzero => ?_, fun harm hcool hpos => ?_⟩⟩
  · rintro (harm | hsafe)
    · exact tickChannel_of_armed harm
    · exact tickChannel_of_safe hsafe
  · rw [tickChannel_of_unarmed harm, if_neg (by simp [hcool]), if_pos hzero]
  · have hdown : c.cnt - 1 = BitVec.ofNat 32 (c.cnt.toNat - 1) := by bv_omega
    rw [tickChannel_of_unarmed harm, if_neg (by simp [hcool]), if_neg hpos, hdown]

/-- Settles O41: the arm of READ loads its own timer and marks it as armed, so that the tick passes it by, and leaves the
other quantity for the tick. -/
theorem armBeatsTick : Obligations.ArmBeatsTick := by
  intro s host b0 b1 b2 hgiven hph hp
  have hstep := readAcknowledged s host true b0 b1 b2 hgiven hph hp
  generalize hu : { busyHost host (beginCycle s) with
    pend := false, history := .consumed (.rAck b0 b1 b2) :: s.history } = u at hstep
  have hchan : ∀ q, u.chan q = { s.chan q with armedNow := false } := fun q => hu ▸ busyHost_chan host s q
  have hcfg : u.cfg = s.cfg := hu ▸ (busyHost_controlSame host s).cfg
  obtain ⟨-, -, -, -, hown, hother⟩ := finishOk_data s.qCur (decodeSample s.qCur b0 b1) u
  refine ⟨_, hstep, ?_, ?_, fun q hq => ?_⟩ <;> rw [cooldownTick_chan, if_pos rfl]
  · rw [hown, tickChannel_of_armed rfl]
    exact congrArg Params.cooldownTicks hcfg
  · rw [hown, tickChannel_of_armed rfl, hcfg]
    rfl
  · rw [hother q hq, hchan, tickChannel_of_unarmed rfl]

end Sys2Proof.Proofs
end

section
/-! PROOFS. The six commands (spec/43_commands.md): what each does in IDLE, what none of them writes in any phase, and
the two phases that end a configuration or synchronisation command. -/

namespace Sys2Proof.Machine

/-! ### The commands in IDLE -/

theorem exec_getT_idle {s : State} (hi : s.phase = .idle) : exec .getT s = .next
    (if s.t.safe = true then startMeasurement .t false (acceptClears s) else acceptClears s) :=
  congrArg Host.Outcome.next (acceptCommand_idle _ s hi)

theorem exec_getH_idle {s : State} (hi : s.phase = .idle) : exec .getH s = .next
    (if s.h.safe = true then startMeasurement .h false (acceptClears s) else acceptClears s) :=
  congrArg Host.Outcome.next (acceptCommand_idle _ s hi)

theorem exec_getData_idle {s : State} (hi : s.phase = .idle) : exec .getData s = .next
    (if s.t.safe = true ∧ s.h.safe = true then startMeasurement .t true (acceptClears s) else acceptClears s) := by
  simp only [← Bool.and_eq_true]
  exact congrArg Host.Outcome.next (acceptCommand_idle _ s hi)

theorem exec_setPrecision_idle {s : State} (hi : s.phase = .idle) (p : Byte) : exec (.setPrecision p) s = .next
    (if validPrecision p = true then { acceptClears s with wkind := .setp, warg := p, phase := .wrcmd }
      else { acceptClears s with cmdErr := .invalidPrecision }) :=
  congrArg Host.Outcome.next (acceptCommand_idle _ s hi)

theorem exec_softReset_idle {s : State} (hi : s.phase = .idle) :
    exec .softReset s = .next { acceptClears s with wkind := .srst, phase := .wrcmd } :=
  congrArg Host.Outcome.next (acceptCommand_idle _ s hi)

theorem exec_waitSafe_idle {s : State} (hi : s.phase = .idle) (m : BitVec 2) :
    exec (.waitSafe m) s = .next { acceptClears s with wmask := m, phase := .waitsafe } :=
  congrArg Host.Outcome.next (acceptCommand_idle _ s hi)

/-- A word that is not legal decodes to no command (spec/30_encoding.md R88). -/
theorem decode_reject_of_not_legal {w : Word} (h : legal w = false) : ∃ e, decode (.command w) = .reject e := by
  cases hd : decode (.command w) with
  | ok i => simp [legal_of_decode w i hd] at h
  | reject e => exact ⟨e, rfl⟩

/-! ### What a command writes -/

/-- `t` is `s` up to the fields a command may write: those of the readout state machine that start it, FRESH, the error
fields and OVR; and OVR while busy only (R160, spec/20_memory.md R63). -/
structure CommandWrites (s t : State) : Prop where
  fields : t = { s with
    phase := t.phase
    qCur := t.qCur
    thenH := t.thenH
    mode := t.mode
    wmask := t.wmask
    wkind := t.wkind
    warg := t.warg
    t := { s.t with fresh := t.t.fresh, err := t.t.err }
    h := { s.h with fresh := t.h.fresh, err := t.h.err }
    cmdErr := t.cmdErr
    ovr := t.ovr }
  ovr : s.phase = .idle → t.ovr = s.ovr

/-- A command writes what its body writes in IDLE, after the clears; while busy it is dropped. -/
theorem acceptCommand_writes {body : State → State} {s : State} (h : CommandWrites s (body (acceptClears s))) :
    CommandWrites s (acceptCommand body s) := by
  by_cases hi : s.phase = .idle
  · rwa [acceptCommand_idle body s hi]
  · rw [acceptCommand_busy body s hi]
    exact ⟨rfl, fun hi' => absurd hi' hi⟩

theorem exec_command_writes {i : Instr} {s t : State} (hk : encodesCommand i = true) (h : exec i s = .next t) :
    CommandWrites s t := by
  cases i with
  | getT | getH | getData | setPrecision p =>
    cases h
    refine acceptCommand_writes ?_
    split <;> exact ⟨rfl, fun _ => rfl⟩
  | softReset | waitSafe m =>
    cases h
    exact acceptCommand_writes ⟨rfl, fun _ => rfl⟩
  | _ => cases hk

/-- No register but STATUS shows a field that a command may write (spec/20_memory.md R62). -/
theorem CommandWrites.regRead {s t : State} (h : CommandWrites s t) {offset : Nat} (hne : offset ≠ 0x04) :
    regRead t offset = regRead s offset := by
  rw [regRead_eq, regRead_eq, if_neg hne, if_neg hne, h.fields]

/-! ### WRCMD and WAITSAFE -/

theorem onWrcmd_wAck (s : State) : onWrcmd .wAck s =
    { s with prec := if s.wkind = .setp then s.warg else s.prec, phase := .idle } := by
  cases h : s.wkind <;> simp [onWrcmd, h]

theorem fsmNext_wrcmd_answered {s : State} (hph : s.phase = .wrcmd) (hp : s.pend = true) (tick : Bool) (r : Response) :
    fsmNext tick (some r) s = onWrcmd r (consume r s) := by
  simp [fsmNext, hph, busNext, hp]

theorem step_wrcmd_answered {s : State} {host : Option HostAccess} {tick : Bool} {r : Response}
    (h : Given s host tick (some r)) (hph : s.phase = .wrcmd) (hp : s.pend = true) (hr : responseKind r = .write) :
    step s = .next (cooldownTick tick (onWrcmd r
      { busyHost host (beginCycle s) with pend := false, history := .consumed r :: s.history })) := by
  have hsame := busyHost_controlSame host s
  rw [step_busy h (responseAdmitted_some_iff.mpr ⟨hp, by rw [hph, hr]; rfl⟩) (by simp [hph]),
    fsmNext_wrcmd_answered (hsame.phase.trans hph) (hsame.pend.trans hp), consume_busyHost]

/-- A bit of the mask that is 0 selects no timer (R169). -/
theorem waitSatisfied_iff {s : State} : waitSatisfied s = true ↔
    (s.wmask.getLsbD 0 = true → s.t.safe = true) ∧ (s.wmask.getLsbD 1 = true → s.h.safe = true) := by
  simp only [waitSatisfied, Bool.and_eq_true, Bool.or_eq_true, Bool.not_eq_true', ← Bool.not_eq_true, imp_iff_not_or]

theorem waitSatisfied_busyHost (host : Option HostAccess) (s : State) :
    waitSatisfied (busyHost host (beginCycle s)) = waitSatisfied s := by
  rw [busyHost_eq]
  rfl

theorem fsmNext_waitsafe {s : State} (hph : s.phase = .waitsafe) (tick : Bool) (rsp : Option Response) :
    fsmNext tick rsp s = { s with phase := if waitSatisfied s = true then .idle else .waitsafe } := by
  simp only [fsmNext, hph]
  split
  · rfl
  · rw [← hph]

end Sys2Proof.Machine
end

section
/-! PROOFS. A no-hold measurement from its trigger to its end (spec/41_measurement.md R119): what a cycle without the
host does to the block and to a timer, and the four cycles of write, answer, read and answer. -/

namespace Sys2Proof.Machine

/-! ### A cycle that passes -/

/-- One cycle of a timer that no sample arms: `armedNow` is cleared, and a tick is seen (spec/42_cooldown.md R141). -/
def Channel.passCycle (tick : Bool) (c : Channel) : Channel :=
  { c with
    safe := c.safe || (tick && c.cnt == 0)
    cnt := if !tick || c.safe || c.cnt == 0 then c.cnt else c.cnt - 1
    armedNow := false }

/-- Cycles with these ticks, the first one's first. -/
def Channel.passCycles (ticks : List Bool) (c : Channel) : Channel := ticks.foldl (fun c tick => c.passCycle tick) c

theorem Channel.ticked_eq_passCycle {c : Channel} (h : c.armedNow = false) (tick : Bool) :
    (if tick = true then tickChannel c else c) = c.passCycle tick := by
  obtain ⟨cache, valid, fresh, err, safe, cnt, armedNow⟩ := c
  obtain rfl : armedNow = false := h
  cases tick <;> simp [tickChannel_eq, Channel.passCycle]

/-- The tick of a cycle on a timer that is not armed in it. -/
theorem cooldownTick_chan_of_unarmed {s : State} {q : Quantity} (h : (s.chan q).armedNow = false) (tick : Bool) :
    (cooldownTick tick s).chan q = (s.chan q).passCycle tick :=
  (cooldownTick_chan tick s q).trans (Channel.ticked_eq_passCycle h tick)

/-- `Arm` beats the tick (R142). -/
theorem cooldownTick_chan_of_armed {s : State} {q : Quantity} (h : (s.chan q).armedNow = true) (tick : Bool) :
    (cooldownTick tick s).chan q = s.chan q := by
  rw [cooldownTick_chan, tickChannel_of_armed h, ite_self]

/-- A timer that is SAFE only at 0 stays so, and a cycle with a tick takes one from its count or finds it at 0. -/
theorem Channel.passCycle_timer (tick : Bool) {c : Channel} (hc : c.safe = true → c.cnt = 0) :
    ((c.passCycle tick).safe = true → (c.passCycle tick).cnt = 0)
      ∧ (c.passCycle tick).cnt.toNat = c.cnt.toNat - tick.toNat
      ∧ (c.passCycle tick).safe = (c.safe || decide (c.cnt.toNat < tick.toNat)) := by
  by_cases hzero : c.cnt = 0#32
  · cases tick <;> simp [Channel.passCycle, hzero]
  · have hcool : c.safe = false := Bool.eq_false_iff.mpr fun hsafe => hzero (hc hsafe)
    cases tick
    · simp [Channel.passCycle, hcool]
    · have hpass : c.passCycle true = { c with cnt := c.cnt - 1, armedNow := false } := by
        simp [Channel.passCycle, hcool, hzero]
      rw [hpass]
      refine ⟨fun hsafe => absurd (hc hsafe) hzero, ?_, ?_⟩
      · show (c.cnt - 1).toNat = c.cnt.toNat - 1
        bv_omega
      · have hpos : ¬c.cnt.toNat < 1 := by bv_omega
        simp [hcool, hpos]

/-- So it counts each tick, and is SAFE once a tick has found it at 0 (R141, R144). -/
theorem Channel.passCycles_timer (ticks : List Bool) {c : Channel} (hc : c.safe = true → c.cnt = 0) :
    (c.passCycles ticks).cnt.toNat = c.cnt.toNat - ticks.count true
      ∧ (c.passCycles ticks).safe = (c.safe || decide (c.cnt.toNat < ticks.count true)) := by
  induction ticks generalizing c with
  | nil => simp [Channel.passCycles]
  | cons tick ticks ih =>
    obtain ⟨hc', hcnt, hsafe⟩ := Channel.passCycle_timer tick hc
    obtain ⟨hcnt', hsafe'⟩ := ih hc'
    have hcount : (tick :: ticks).count true = ticks.count true + tick.toNat := by
      cases tick <;> simp
    have hlt : c.cnt.toNat < tick.toNat ∨ c.cnt.toNat - tick.toNat < ticks.count true
        ↔ c.cnt.toNat < (tick :: ticks).count true := by omega
    refine ⟨hcnt'.trans (by omega), hsafe'.trans ?_⟩
    rw [hsafe, hcnt, Bool.or_assoc, ← Bool.decide_or, decide_eq_decide.mpr hlt]

/-- The state after a cycle in which nothing happens but the tick: the outputs of the cycle before are gone, the timers
pass the cycle, the script and the counter go on. -/
def State.passCycle (tick : Bool) (s : State) : State :=
  { s with
    script := s.script.tail
    cycle := s.cycle + 1
    rdata := none
    issue := none
    t := s.t.passCycle tick
    h := s.h.passCycle tick }

/-- The tick of a cycle that arms no timer. -/
theorem cooldownTick_of_unarmed {s : State} (ht : s.t.armedNow = false) (hh : s.h.armedNow = false) (tick : Bool) :
    cooldownTick tick s = { s with t := s.t.passCycle tick, h := s.h.passCycle tick } := by
  rw [cooldownTick_eq, Channel.ticked_eq_passCycle ht, Channel.ticked_eq_passCycle hh]

/-! ### The four cycles -/

/-- The inputs of a no-hold measurement whose write and first read are acknowledged: the write, its answer, the read,
its answer, with these ticks and bytes and no host. -/
def noHoldCycles (k1 k2 k3 k4 : Bool) (b0 b1 b2 : Byte) : List CycleInput :=
  [{ quiet with tick := k1 }, { quiet with tick := k2, rsp := some .wAck }, { quiet with tick := k3 },
    { quiet with tick := k4, rsp := some (.rAck b0 b1 b2) }]

theorem given_of_script {s : State} {host : Option HostAccess} {tick : Bool} {rsp : Option Response}
    {rest : List CycleInput} (hs : s.script = { rst := false, tick := tick, host := host, rsp := rsp } :: rest)
    (hcfg : paramsAdmitted s.cfg = true) (hh : hostAdmitted host = true) : Given s host tick rsp :=
  ⟨hcfg, hh, cycleInput_cons s _ rest hs⟩

theorem run_succ_of_step {s u : State} (h : step s = .next u) (n : Nat) : core.run (n + 1) s = core.run n u := by
  rw [run_succ, h]
  rfl

/-- A cycle without the host whose arm writes the phase, the port and the count of refusals only: the tick sees none of
them. -/
theorem cooldownTick_beginCycle_with (tick : Bool) (s : State) (p : Phase) (pend : Bool) (n : BitVec 8)
    (i : Option Txn) (l : List Event) :
    cooldownTick tick { beginCycle s with phase := p, pend := pend, nacks := n, issue := i, history := l } =
      { s.passCycle tick with phase := p, pend := pend, nacks := n, issue := i, history := l } :=
  cooldownTick_of_unarmed rfl rfl tick

/-- The trigger is put on the port (R110). -/
def State.triggerIssued (tick : Bool) (s : State) : State :=
  startTxn (.busWrite s.cfg.devAddr (encodeTrigger s.qCur s.mode)) (s.passCycle tick)

/-- The trigger is acknowledged in no-hold mode (R113). -/
def State.triggerAcked (tick : Bool) (s : State) : State :=
  { consume .wAck (s.passCycle tick) with phase := .read, nacks := 0 }

/-- The read is put on the port (R110). -/
def State.readIssued (tick : Bool) (s : State) : State := startTxn (.busRead s.cfg.devAddr 3) (s.passCycle tick)

theorem step_trig_issues {s : State} {tick : Bool} (h : Given s none tick none) (hph : s.phase = .trig)
    (hp : s.pend = false) : step s = .next (s.triggerIssued tick) :=
  (step_of_frame h hp (by simp [phaseFrame, hph])).trans
    (congrArg Host.Outcome.next (cooldownTick_beginCycle_with tick s s.phase true s.nacks _ _))

theorem step_trig_acked {s : State} {tick : Bool} (h : Given s none tick (some .wAck)) (hph : s.phase = .trig)
    (hp : s.pend = true) (hm : s.mode = false) : step s = .next (s.triggerAcked tick) := by
  rw [step_trig_answered h hph hp rfl, onTrig_wAck_noHold (by exact hm)]
  exact congrArg Host.Outcome.next (cooldownTick_beginCycle_with tick s .read false 0 none _)

theorem step_read_issues {s : State} {tick : Bool} (h : Given s none tick none) (hph : s.phase = .read)
    (hp : s.pend = false) : step s = .next (s.readIssued tick) :=
  (step_of_read h hp hph).trans
    (congrArg Host.Outcome.next (cooldownTick_beginCycle_with tick s s.phase true s.nacks _ _))

/-- The measurement waits for the answer to its first read. -/
def State.readPending (k1 k2 k3 : Bool) (s : State) : State := ((s.triggerIssued k1).triggerAcked k2).readIssued k3

/-- The answer is consumed. -/
def State.readAnswered (k1 k2 k3 : Bool) (r : Response) (s : State) : State :=
  consume r (beginCycle (s.readPending k1 k2 k3))

theorem run_readPending {s : State} {k1 k2 k3 k4 : Bool} {b0 b1 b2 : Byte} {rest : List CycleInput}
    (hcfg : paramsAdmitted s.cfg = true) (hph : s.phase = .trig) (hp : s.pend = false) (hm : s.mode = false)
    (hs : s.script = noHoldCycles k1 k2 k3 k4 b0 b1 b2 ++ rest) :
    core.run 3 s = .next (s.readPending k1 k2 k3) := by
  have hs1 : (s.triggerIssued k1).script = _ := congrArg List.tail hs
  have hs2 : ((s.triggerIssued k1).triggerAcked k2).script = _ := congrArg List.tail hs1
  rw [run_succ_of_step (step_trig_issues (given_of_script hs hcfg rfl) hph hp),
    run_succ_of_step (step_trig_acked (given_of_script hs1 hcfg rfl) hph rfl hm),
    run_succ_of_step (step_read_issues (given_of_script hs2 hcfg rfl) rfl rfl)]
  rfl

/-- What `Finish` with a sample writes of the readout state machine (R118). -/
theorem finishOk_goesOn (q : Quantity) (n : Word) (s : State) :
    (finishOk q n s).phase = (if q = .t ∧ s.thenH = true then .trig else .idle)
      ∧ (finishOk q n s).qCur = (if q = .t ∧ s.thenH = true then .h else s.qCur)
      ∧ (finishOk q n s).thenH = (if q = .t ∧ s.thenH = true then false else s.thenH) := by
  unfold finishOk
  rw [endMeasurement_eq]
  cases q <;> exact ⟨rfl, rfl, rfl⟩

/-- What an acknowledged no-hold measurement that is triggered in `s` leaves: the sample stored and its timer armed, the
other quantity through four cycles with these ticks, exactly two transactions, and the end of R118. -/
structure Measured (s t : State) (ticks : List Bool) (b0 b1 b2 : Byte) : Prop where
  phase : t.phase = if s.qCur = .t ∧ s.thenH = true then .trig else .idle
  qCur : t.qCur = if s.qCur = .t ∧ s.thenH = true then .h else s.qCur
  thenH : t.thenH = if s.qCur = .t ∧ s.thenH = true then false else s.thenH
  pend : t.pend = false
  mode : t.mode = s.mode
  own : t.chan s.qCur = { s.chan s.qCur with
    cache := decodeSample s.qCur b0 b1, valid := true, fresh := true, cnt := s.cfg.cooldownTicks
    safe := s.cfg.cooldownTicks == 0, armedNow := true }
  other : ∀ q, q ≠ s.qCur → t.chan q = (s.chan q).passCycles ticks
  prec : t.prec = s.prec
  cmdErr : t.cmdErr = s.cmdErr
  ovr : t.ovr = s.ovr
  history : t.history = [.consumed (.rAck b0 b1 b2), .issued (.busRead s.cfg.devAddr 3), .consumed .wAck,
    .issued (.busWrite s.cfg.devAddr (encodeTrigger s.qCur false))] ++ s.history
  cfg : t.cfg = s.cfg

/-- The answer to the read ends the measurement, and the last tick passes the armed timer by (spec/42_cooldown.md
R142). -/
theorem measured_of_answer {s : State} (hm : s.mode = false) (k1 k2 k3 k4 : Bool) (b0 b1 b2 : Byte) :
    Measured s (cooldownTick k4 (finishOk s.qCur (decodeSample s.qCur b0 b1)
      (s.readAnswered k1 k2 k3 (.rAck b0 b1 b2)))) [k1, k2, k3, k4] b0 b1 b2 := by
  let u : State := s.readAnswered k1 k2 k3 (.rAck b0 b1 b2)
  let n : Word := decodeSample s.qCur b0 b1
  have hchan : ∀ q, u.chan q = (s.chan q).passCycles [k1, k2, k3] := fun q => by cases q <;> rfl
  have hport : u.history = [.consumed (.rAck b0 b1 b2), .issued (.busRead s.cfg.devAddr 3), .consumed .wAck,
      .issued (.busWrite s.cfg.devAddr (encodeTrigger s.qCur false))] ++ s.history := by
    rw [← hm]
    rfl
  obtain ⟨hphase, hqCur, hthenH⟩ := finishOk_goesOn s.qCur n u
  obtain ⟨hprec, hcmdErr, -, -, hown, hother⟩ := finishOk_data s.qCur n u
  obtain ⟨hhistory, -, hpend⟩ := finishOk_port s.qCur n u
  obtain ⟨hmode, -, -, -, -, hovr, -, hcfg, -⟩ := finishOk_frame s.qCur n u
  change Measured s (cooldownTick k4 (finishOk s.qCur n u)) [k1, k2, k3, k4] b0 b1 b2
  generalize finishOk s.qCur n u = v at *
  rw [hchan] at hown
  have hown' : (cooldownTick k4 v).chan s.qCur = v.chan s.qCur := cooldownTick_chan_of_armed (by rw [hown]) k4
  have hother' : ∀ q, q ≠ s.qCur → (cooldownTick k4 v).chan q = (s.chan q).passCycles [k1, k2, k3, k4] := by
    intro q hq
    have hv : v.chan q = (s.chan q).passCycles [k1, k2, k3] := (hother q hq).trans (hchan q)
    rw [cooldownTick_chan_of_unarmed (by rw [hv]; rfl), hv]
    rfl
  rw [cooldownTick_eq] at hown' hother' ⊢
  exact ⟨hphase, hqCur, hthenH, hpend, hmode, hown'.trans hown, hother', hprec, hcmdErr, hovr, hhistory.trans hport,
    hcfg⟩

theorem run_noHold_measurement {s : State} {k1 k2 k3 k4 : Bool} {b0 b1 b2 : Byte} {rest : List CycleInput}
    (hcfg : paramsAdmitted s.cfg = true) (hph : s.phase = .trig) (hp : s.pend = false) (hm : s.mode = false)
    (hs : s.script = noHoldCycles k1 k2 k3 k4 b0 b1 b2 ++ rest) :
    ∃ t, core.run 4 s = .next t ∧ Measured s t [k1, k2, k3, k4] b0 b1 b2 ∧ t.script = rest := by
  have hs3 : (s.readPending k1 k2 k3).script = { quiet with tick := k4, rsp := some (.rAck b0 b1 b2) } :: rest :=
    congrArg (fun l => l.tail.tail.tail) hs
  have hanswer := step_read_answered (given_of_script hs3 hcfg rfl) rfl rfl rfl
  obtain ⟨-, hscript, -⟩ := Proofs.parametersNeverChange _ _ hanswer
  refine ⟨_, ?_, measured_of_answer hm k1 k2 k3 k4 b0 b1 b2, hscript.trans (congrArg List.tail hs3)⟩
  rw [run_add 3 1, run_readPending hcfg hph hp hm hs]
  exact run_succ_of_step hanswer 0

/-- The measurement leaves the decoded sample valid and fresh, and the error field as the acceptance left it. -/
theorem Measured.sample {s t : State} {ks : List Bool} {b0 b1 b2 : Byte} (h : Measured s t ks b0 b1 b2) :
    (t.chan s.qCur).cache = decodeSample s.qCur b0 b1 ∧ (t.chan s.qCur).valid = true
      ∧ (t.chan s.qCur).fresh = true ∧ (t.chan s.qCur).err = (s.chan s.qCur).err := by
  rw [h.own]
  exact ⟨rfl, rfl, rfl, rfl⟩

/-- The measurement leaves its timer with the whole window to count, SAFE only if that is empty (R140). -/
theorem Measured.armed {s t : State} {ks : List Bool} {b0 b1 b2 : Byte} (h : Measured s t ks b0 b1 b2) :
    (t.chan s.qCur).cnt = s.cfg.cooldownTicks
      ∧ (t.chan s.qCur).safe = decide (s.cfg.cooldownTicks.toNat = 0) := by
  rw [h.own]
  exact ⟨rfl, decide_eq_decide.mpr BitVec.toNat_inj.symm⟩

/-- The timer armed by a measurement, after more cycles with these ticks (R144). -/
theorem Measured.armed_passCycles {s t : State} {ks : List Bool} {b0 b1 b2 : Byte} (h : Measured s t ks b0 b1 b2)
    (ticks : List Bool) :
    ((t.chan s.qCur).passCycles ticks).cnt.toNat = s.cfg.cooldownTicks.toNat - ticks.count true
      ∧ ((t.chan s.qCur).passCycles ticks).safe =
          decide (s.cfg.cooldownTicks.toNat = 0 ∨ s.cfg.cooldownTicks.toNat < ticks.count true) := by
  obtain ⟨hcnt, hsafe⟩ := h.armed
  have hzero : (t.chan s.qCur).safe = true → (t.chan s.qCur).cnt = 0 := by
    rw [hsafe, hcnt, decide_eq_true_eq]
    exact fun hticks => BitVec.eq_of_toNat_eq hticks
  obtain ⟨hcnt', hsafe'⟩ := (t.chan s.qCur).passCycles_timer ticks hzero
  rw [hcnt] at hcnt' hsafe'
  exact ⟨hcnt', by rw [hsafe', hsafe, Bool.decide_or]⟩

/-! ### The command before them -/

/-- In IDLE no transaction is outstanding (spec/10_state.md R45 (d)). -/
theorem State.Control.pend_of_idle {s : State} (hc : s.Control) (hi : s.phase = .idle) : s.pend = false := by
  rw [← Bool.not_eq_true]
  intro hp
  simpa [hi, outstandingKind] using hc.pend hp

/-- The cycle that accepts a command which starts a measurement. -/
theorem step_starts_measurement {s : State} {i : Instr} {w : Word} {tick : Bool} {q : Quantity} {thenH : Bool}
    (h : Given s (some (storeCommand w)) tick none) (hi : s.phase = .idle) (hd : decode (.command w) = .ok i)
    (hx : exec i (beginCycle s) = .next (startMeasurement q thenH (acceptClears (beginCycle s)))) :
    step s = .next (startMeasurement q thenH (acceptClears (s.passCycle tick))) := by
  obtain ⟨hrun, -⟩ := Proofs.stepRunsWrittenCommand s w tick none h rfl
  rw [hrun i hd, hx, hi]
  exact congrArg Host.Outcome.next (cooldownTick_of_unarmed rfl rfl tick)

/-- A command that starts a measurement in no-hold mode, from its acceptance to the end of the measurement. -/
theorem run_noHold_command {s : State} {i : Instr} {w : Word} {k0 k1 k2 k3 k4 : Bool} {b0 b1 b2 : Byte}
    {rest : List CycleInput} {q : Quantity} {thenH : Bool} (hinv : s.Inv) (hi : s.phase = .idle)
    (hhold : s.hold = false)
    (hs : s.script = { rst := false, tick := k0, host := some (storeCommand w), rsp := none }
      :: (noHoldCycles k1 k2 k3 k4 b0 b1 b2 ++ rest))
    (hd : decode (.command w) = .ok i)
    (hx : exec i (beginCycle s) = .next (startMeasurement q thenH (acceptClears (beginCycle s)))) :
    ∃ t, core.run 5 s = .next t
      ∧ Measured (startMeasurement q thenH (acceptClears (s.passCycle k0))) t [k1, k2, k3, k4] b0 b1 b2
      ∧ t.script = rest := by
  obtain ⟨hcfg, -, hc⟩ := State.inv_iff.mp hinv
  have haccept := step_starts_measurement (given_of_script hs hcfg rfl) hi hd hx
  obtain ⟨t, hrun, hm, hrest⟩ := run_noHold_measurement
    (s := startMeasurement q thenH (acceptClears (s.passCycle k0)))
    hcfg rfl (hc.pend_of_idle hi) hhold (congrArg List.tail hs)
  exact ⟨t, (run_succ_of_step haccept 4).trans hrun, hm, hrest⟩

end Sys2Proof.Machine
end

section
/-! PROOFS. The obligations about the commands (spec/43_commands.md). -/

namespace Sys2Proof.Proofs

open Sys2Proof.Machine

/-! ### Single commands -/

/-- Settles O50: a command writes fields of the readout state machine, FRESH, error fields and OVR, and no more. -/
theorem commandFrame : Obligations.CommandFrame := by
  intro i s t w hi h
  have hw := exec_command_writes (decode_command_kind w i (decode_command_iff_encode.mpr hi)) h
  have hreg : ∀ offset, offset ≠ 0x04 → regRead t offset = regRead s offset := fun _ => hw.regRead
  have hovr := hw.ovr
  rw [hw.fields] at hreg hovr ⊢
  exact ⟨rfl, rfl, rfl, rfl, rfl, rfl, rfl, rfl, rfl, rfl, rfl, rfl, rfl, rfl, rfl, rfl, rfl, rfl, rfl, rfl, rfl,
    hreg, hovr⟩

/-- Settles O20: the word is accepted as an illegal command. -/
theorem illegalCommandRecorded : Obligations.IllegalCommandRecorded := by
  intro s w hi hw
  obtain ⟨e, he⟩ := decode_reject_of_not_legal hw
  show writeCommand w s = _
  rw [writeCommand_of_reject he, illegalCommand, acceptCommand_idle _ s hi]
  rfl

/-- Settles O22: the three commands run in IDLE, `startMeasurement` written out. -/
theorem measurementCommandsInIdle : Obligations.MeasurementCommandsInIdle := fun _ hi =>
  ⟨rfl, exec_getT_idle hi, exec_getH_idle hi, exec_getData_idle hi⟩

/-- Settles O23: the codes that `validPrecision` admits are the four of the rule. -/
theorem configurationCommandsInIdle : Obligations.ConfigurationCommandsInIdle := by
  intro s p m hi
  refine ⟨?_, exec_softReset_idle hi, exec_waitSafe_idle hi m⟩
  rw [exec_setPrecision_idle hi]
  simp only [validPrecision_iff]

/-- Settles O34: the arm of WRCMD answers, and the host's access leaves the latched kind, the code and PREC. -/
theorem configurationWriteAnswered : Obligations.ConfigurationWriteAnswered := by
  intro s host tick r hgiven hph hp s0
  have hsame := busyHost_controlSame host s
  have hstep := step_wrcmd_answered hgiven hph hp
  refine ⟨?_, ?_⟩
  · rintro rfl
    rw [hstep rfl, onWrcmd_wAck, ← hsame.wkind, ← hsame.warg, ← (busyHost_afterHost host s).prec]
  · rintro rfl
    rw [hstep rfl]
    rfl

/-- Settles O36: the arm of WAITSAFE sees the mask and the timers of the start of the cycle. -/
theorem waitSafeEndsWhenSelectedSafe : Obligations.WaitSafeEndsWhenSelectedSafe := by
  intro s host tick hgiven _ hph
  have hsame := busyHost_controlSame host s
  rw [step_busy hgiven rfl (by simp [hph]), fsmNext_waitsafe (hsame.phase.trans hph), waitSatisfied_busyHost]
  simp only [waitSatisfied_iff]

/-! ### Whole measurements -/

/-- Settles O53: the acceptance and one measurement, with no humidity to follow. -/
theorem getTNoHoldEndToEnd : Obligations.GetTNoHoldEndToEnd := by
  intro s k0 k1 k2 k3 k4 b0 b1 b2 rest hinv hi hsafe hhold hs
  obtain ⟨t, hrun, hm, -⟩ := run_noHold_command hinv hi hhold hs decode_get_t
    ((exec_getT_idle (s := beginCycle s) hi).trans (congrArg Host.Outcome.next (if_pos hsafe)))
  have ht : t.t = _ := hm.own
  have hh : t.h = _ := hm.other .h nofun
  refine ⟨t, hrun, hm.phase, hm.pend, ?_⟩
  rw [ht, hh]
  exact ⟨rfl, rfl, rfl, rfl, rfl, rfl, rfl, rfl, rfl, rfl, hm.cmdErr, hm.prec, hm.ovr, hm.history⟩

/-- Settles O54: the acceptance and two measurements, the timer of the temperature passing the cycles of the second. -/
theorem getDataNoHoldEndToEnd : Obligations.GetDataNoHoldEndToEnd := by
  intro s k0 k1 k2 k3 k4 k5 k6 k7 k8 b0 b1 b2 c0 c1 c2 rest hinv hi hsafeT hsafeH hhold hs window n
  obtain ⟨u, hrunT, hT, hscript⟩ := run_noHold_command hinv hi hhold hs decode_get_data
    ((exec_getData_idle (s := beginCycle s) hi).trans (congrArg Host.Outcome.next (if_pos ⟨hsafeT, hsafeH⟩)))
  obtain ⟨hadm, -⟩ := State.inv_iff.mp hinv
  have hcfg : u.cfg = s.cfg := hT.cfg
  have hcur : u.qCur = .h := hT.qCur
  obtain ⟨t, hrunH, hH, -⟩ := run_noHold_measurement (hcfg ▸ hadm) hT.phase hT.pend (hT.mode.trans hhold) hscript
  obtain ⟨hcacheT, hvalidT, hfreshT, herrT⟩ := hT.sample
  obtain ⟨hcacheH, hvalidH, hfreshH, herrH⟩ := hH.sample
  obtain ⟨hcntT, hsafeT'⟩ := hT.armed_passCycles [k5, k6, k7, k8]
  obtain ⟨hcntH, hsafeH'⟩ := hH.armed
  have hphase := hH.phase
  have hhistory := hH.history
  have ht := hH.other .t (by rw [hcur]; nofun)
  rw [hcur] at hphase hhistory hcacheH hvalidH hfreshH herrH hcntH hsafeH'
  rw [hcfg] at hhistory hcntH hsafeH'
  rw [hT.history] at hhistory
  have hherr : u.h.err = .none := congrArg Channel.err (hT.other .h nofun)
  refine ⟨t, (run_add 5 4 s).trans (by rw [hrunT]; exact hrunH), hphase, hH.pend, ?_⟩
  rw [show t.t = u.t.passCycles [k5, k6, k7, k8] from ht]
  exact ⟨hcacheT, hcacheH, hvalidT, hvalidH, hfreshT, hfreshH, herrT, herrH.trans hherr,
    hH.cmdErr.trans hT.cmdErr, hH.prec.trans hT.prec, hH.ovr.trans hT.ovr, hcntT, hsafeT',
    congrArg BitVec.toNat hcntH, hsafeH', hhistory⟩

end Sys2Proof.Proofs
end

section
/-! PROOFS. The error fields (spec/60_exceptions.md R201): which part of a cycle writes them, and when. -/

namespace Sys2Proof.Machine

/-- An update that leaves the three error fields alone. -/
abbrev ErrorsSame (s v : State) : Prop := v.t.err = s.t.err ∧ v.h.err = s.h.err ∧ v.cmdErr = s.cmdErr

theorem cooldownTick_errorsSame (tick : Bool) (s : State) : ErrorsSame s (cooldownTick tick s) := by
  rw [cooldownTick_eq, tickChannel_eq, tickChannel_eq]
  cases tick <;> exact ⟨rfl, rfl, rfl⟩

theorem busyHost_errorsSame (host : Option HostAccess) (s : State) :
    ErrorsSame s (busyHost host (beginCycle s)) := by
  rw [busyHost_eq]
  exact ⟨rfl, rfl, rfl⟩

/-- A failed measurement writes the error field of its own quantity (spec/41_measurement.md R118). -/
theorem finishFail_otherErrors (q : Quantity) (e : ErrCode) (s : State) :
    (q = .t → (finishFail q e s).h.err = s.h.err) ∧ (q = .h → (finishFail q e s).t.err = s.t.err) := by
  obtain ⟨-, -, -, hother⟩ := finishFail_data q e s
  refine ⟨?_, ?_⟩ <;> rintro rfl
  · exact congrArg Channel.err (hother .h nofun)
  · exact congrArg Channel.err (hother .t nofun)

/-- An arm that leads from `s` to `v` leaves the error fields alone, records a failed measurement in the field of its
quantity, or records a failed configuration or initialisation write in CMD_ERR (spec/10_state.md R32). -/
abbrev ErrorCases (rsp : Option Response) (s v : State) : Prop :=
  ErrorsSame s v
    ∨ (s.pend = true ∧ s.phase.measuring = true ∧ v.cmdErr = s.cmdErr
        ∧ (rsp = some .wNack ∨ rsp = some .rNack)
        ∧ (s.qCur = .t → v.h.err = s.h.err) ∧ (s.qCur = .h → v.t.err = s.t.err))
    ∨ (s.pend = true ∧ (s.phase = .initRst ∨ s.phase = .initPrec ∨ s.phase = .wrcmd)
        ∧ rsp = some .wNack ∧ v.cmdErr = .busError ∧ v.t.err = s.t.err ∧ v.h.err = s.h.err)

/-- Of the five effects an arm can have on the data, a sample and an acknowledged write record no error. -/
theorem fsmNext_errors (tick : Bool) (rsp : Option Response) (s : State) :
    ErrorCases rsp s (fsmNext tick rsp s) := by
  obtain ⟨ht, hh, -, hc⟩ | ⟨b0, b1, b2, -, -, -, hv⟩ | ⟨r, e, hnack, hm, hp, hr, hv⟩ | ⟨-, -, ht, hh, hc, -⟩ |
    ⟨hp, hr, ht, hh, -, hc, hph⟩ := fsmNext_data tick rsp s
  · exact .inl ⟨congrArg _ ht, congrArg _ hh, hc⟩
  · obtain ⟨-, hc, ht, hh, -⟩ :=
      finishOk_data s.qCur (decodeSample s.qCur b0 b1) (consume (.rAck b0 b1 b2) s)
    rw [hv]
    exact .inl ⟨ht, hh, hc⟩
  · obtain ⟨-, hc, -⟩ := finishFail_data s.qCur e (consume r s)
    obtain ⟨hh, ht⟩ := finishFail_otherErrors s.qCur e (consume r s)
    have hrsp : rsp = some .wNack ∨ rsp = some .rNack := by simpa [hr] using hnack
    rw [hv]
    exact .inr (.inl ⟨hp, hm, hc, hrsp, hh, ht⟩)
  · exact .inl ⟨congrArg _ ht, congrArg _ hh, hc⟩
  · exact .inr (.inr ⟨hp, hph, hr, hc, congrArg _ ht, congrArg _ hh⟩)

theorem hostAdmitted_of_step {s t : State} (h : step s = .next t) (hr : (cycleInput s).rst = false) :
    hostAdmitted (cycleInput s).host = true := by
  obtain ⟨-, ⟨hr', -⟩ | ⟨-, hadm, -⟩⟩ := step_shape h
  · simp [hr] at hr'
  · exact hadm

end Sys2Proof.Machine
end

section
/-! PROOFS. The obligations about errors and simultaneous events (spec/60_exceptions.md). -/

namespace Sys2Proof.Proofs

open Sys2Proof.Machine

/-- Settles O49: in IDLE only an accepted word writes the error fields, and while busy only the arm does. -/
theorem errorsChangeOnlyWhereRecorded : Obligations.ErrorsChangeOnlyWhereRecorded := by
  intro s t h hr
  obtain ⟨u, hu, -, ⟨hi, rfl⟩ | ⟨-, hsame, hbusy, -, rfl⟩⟩ := step_parts h hr
  · obtain ⟨⟨width, w, hw⟩, -⟩ | ⟨-, rfl⟩ := hostStep_idle_shape hi hu
    · obtain rfl := hostAdmitted_write_width (hw ▸ hostAdmitted_of_step h hr)
      exact .inl ⟨hi, w, hw⟩
    · obtain ⟨ht, hh, hc⟩ := busyHost_errorsSame (cycleInput s).host s
      obtain ⟨ht', hh', hc'⟩ :=
        cooldownTick_errorsSame (cycleInput s).tick (busyHost (cycleInput s).host (beginCycle s))
      exact .inr (.inl ⟨ht'.trans ht, hh'.trans hh, hc'.trans hc⟩)
  · obtain ⟨ht, hh, hc⟩ : ErrorsSame s u := hbusy ▸ busyHost_errorsSame (cycleInput s).host s
    obtain ⟨ht', hh', hc'⟩ :=
      cooldownTick_errorsSame (cycleInput s).tick (fsmNext (cycleInput s).tick (cycleInput s).rsp u)
    rw [ht', hh', hc', ← ht, ← hh, ← hc, ← hsame.phase, ← hsame.pend, ← hsame.qCur]
    exact .inr (fsmNext_errors _ _ u)

/-- Settles O21: each of the six is the decode of its own word, and a busy block drops every such command. -/
theorem busyCommandsDropped : Obligations.BusyCommandsDropped := by
  intro s p m hb
  have dropped : ∀ {i w}, encode i = .command w → exec i s = .next { s with ovr := true } :=
    fun hi => exec_command_busy _ _ s (decode_command_iff_encode.mpr hi) hb
  exact ⟨dropped rfl, dropped rfl, dropped rfl, dropped rfl, dropped rfl, dropped rfl⟩

/-- Settles O45: the acceptance sees the timer of the start of the cycle and does the clears alone; then the tick finds
the timer at 0. -/
theorem getTSeesStartOfCycleTimer : Obligations.GetTSeesStartOfCycleTimer := by
  intro s hgiven hi _ hcool hzero
  obtain ⟨hrun, -⟩ := stepRunsWrittenCommand s 0x00000001 true none hgiven rfl
  have haccept : exec .getT (beginCycle s) = .next (acceptClears (beginCycle s)) :=
    (exec_getT_idle (s := beginCycle s) hi).trans (congrArg _ (if_neg (by simp [hcool])))
  have hstep : step s = .next (acceptClears (s.passCycle true)) := by
    rw [hrun .getT decode_get_t, haccept, hi]
    exact congrArg Host.Outcome.next (cooldownTick_of_unarmed rfl rfl true)
  exact ⟨_, hstep, hi, rfl, by simp [State.passCycle, Channel.passCycle, hzero], rfl, rfl⟩

end Sys2Proof.Proofs
end

section
/-! PROOFS. Reset, the initialisation and the sequence WAIT_SAFE 3, GET_DATA (spec/70_reset_and_hazards.md): the answers
to the two writes of the initialisation, which cycles keep a timer SAFE, and where a temperature measurement with
humidity to follow leads. -/

namespace Sys2Proof.Machine

/-! ### The answers to the writes of the initialisation -/

theorem fsmNext_initRst_answered {s : State} (hph : s.phase = .initRst) (hp : s.pend = true) (tick : Bool)
    (r : Response) : fsmNext tick (some r) s = onInitRst r (consume r s) := by
  simp [fsmNext, hph, busNext, hp]

theorem fsmNext_initPrec_answered {s : State} (hph : s.phase = .initPrec) (hp : s.pend = true) (tick : Bool)
    (r : Response) : fsmNext tick (some r) s = onInitPrec r (consume r s) := by
  simp [fsmNext, hph, busNext, hp]

/-- INIT_RST goes on whatever the answer, and a refusal is recorded (spec/70_reset_and_hazards.md R222). -/
theorem onInitRst_write {r : Response} (hr : r = .wAck ∨ r = .wNack) (s : State) : onInitRst r s =
    enterDelay s.cfg.resetSettle .initSettle .initPrec
      { s with cmdErr := if r = .wNack then .busError else s.cmdErr } := by
  obtain rfl | rfl := hr <;> rfl

/-- INIT_PREC ends in IDLE whatever the answer, PREC being written for an acknowledgement (R223). -/
theorem onInitPrec_write {r : Response} (hr : r = .wAck ∨ r = .wNack) (s : State) : onInitPrec r s =
    { s with
      prec := if r = .wAck then s.cfg.initPrecision else s.prec
      cmdErr := if r = .wNack then .busError else s.cmdErr
      phase := .idle } := by
  obtain rfl | rfl := hr <;> rfl

/-- A cycle that consumes the answer to a write, in a phase whose arm answers with `f`. -/
theorem step_write_answered {s : State} {host : Option HostAccess} {tick : Bool} {r : Response}
    {f : Response → State → State} (h : Given s host tick (some r)) (hk : outstandingKind s.phase = some .write)
    (hp : s.pend = true) (hr : r = .wAck ∨ r = .wNack)
    (hf : ∀ u : State, u.phase = s.phase → u.pend = true → fsmNext tick (some r) u = f r (consume r u)) :
    step s = .next (cooldownTick tick (f r
      { busyHost host (beginCycle s) with pend := false, history := .consumed r :: s.history })) := by
  have hsame := busyHost_controlSame host s
  have hkind : responseKind r = .write := by obtain rfl | rfl := hr <;> rfl
  have hb : s.phase ≠ .idle := fun hi => by simp [hi, outstandingKind] at hk
  rw [step_busy h (responseAdmitted_some_iff.mpr ⟨hp, hkind ▸ hk⟩) hb, hf _ hsame.phase (hsame.pend.trans hp),
    consume_busyHost]

/-! ### The cycles that keep a timer SAFE -/

/-- A timer leaves SAFE in a cycle of READ only (spec/42_cooldown.md R140). -/
theorem step_keeps_safe {s t : State} {q : Quantity} (h : step s = .next t) (hph : s.phase ≠ .read)
    (hsafe : (s.chan q).safe = true) : (t.chan q).safe = true := by
  by_contra hcool
  obtain ⟨hread, -⟩ := Proofs.safeEndsOnlyBySample s t q h hsafe (by simpa using hcool)
  exact hph hread

/-- WAITSAFE is left for IDLE only when its condition holds (spec/43_commands.md R169). -/
theorem waitSatisfied_of_end {s t : State} (hph : s.phase = .waitsafe) (hr : (cycleInput s).rst = false)
    (h : step s = .next t) (ht : t.phase = .idle) : waitSatisfied s = true := by
  obtain ⟨u, -, -, ⟨hi, -⟩ | ⟨-, hsame, rfl, -, rfl⟩⟩ := step_parts h hr
  · simp [hph] at hi
  · rw [(cooldownTick_controlSame _ _).phase, fsmNext_waitsafe (hsame.phase.trans hph), waitSatisfied_busyHost] at ht
    by_contra hwait
    simp [hwait] at ht

/-! ### A temperature measurement with humidity to follow -/

/-- The first measurement of GET_DATA is in progress (spec/43_commands.md R164). -/
abbrev State.MeasuresTThenH (s : State) : Prop := s.phase.measuring = true ∧ s.qCur = .t ∧ s.thenH = true

/-- The second measurement of GET_DATA is at its trigger (spec/41_measurement.md R118). -/
abbrev State.TriggersH (s : State) : Prop := s.phase = .trig ∧ s.qCur = .h ∧ s.thenH = false

theorem ControlSame.measuresTThenH {s u : State} (h : ControlSame s u) (hs : s.MeasuresTThenH) : u.MeasuresTThenH := by
  obtain ⟨hm, hq, hth⟩ := hs
  exact ⟨h.phase ▸ hm, h.qCur.trans hq, h.thenH.trans hth⟩

theorem endMeasurement_triggersH {s : State} (hth : s.thenH = true) : (endMeasurement .t s).TriggersH := by
  rw [endMeasurement_thenH hth]
  exact ⟨rfl, rfl, rfl⟩

theorem finishOk_triggersH {s : State} (hq : s.qCur = .t) (hth : s.thenH = true) (n : Word) :
    (finishOk s.qCur n s).TriggersH := by
  rw [hq]
  exact endMeasurement_triggersH hth

theorem finishFail_triggersH {s : State} (hq : s.qCur = .t) (hth : s.thenH = true) (e : ErrCode) :
    (finishFail s.qCur e s).TriggersH := by
  rw [hq]
  exact endMeasurement_triggersH hth

theorem enterDelay_measuresTThenH {d p : Phase} (hd : d.measuring = true) (hp : p.measuring = true) (n : BitVec 16)
    {s : State} (hq : s.qCur = .t) (hth : s.thenH = true) : (enterDelay n d p s).MeasuresTThenH := by
  unfold enterDelay
  split
  · exact ⟨hp, hq, hth⟩
  · exact ⟨hd, hq, hth⟩

theorem waitDelay_measuresTThenH {next : Phase} (tick : Bool) {s : State} (hs : s.MeasuresTThenH)
    (hn : next.measuring = true) : (waitDelay next tick s).MeasuresTThenH := by
  obtain ⟨hm, hq, hth⟩ := hs
  exact ⟨waitDelay_measuring tick hm hn, by rwa [waitDelay_eq], by rwa [waitDelay_eq]⟩

theorem onTrig_thenH (r : Response) {s : State} (hs : s.MeasuresTThenH) :
    (onTrig r s).MeasuresTThenH ∨ (onTrig r s).TriggersH := by
  have ⟨_, hq, hth⟩ := hs
  cases r with
  | wAck =>
    cases hm : s.mode
    · exact .inl (onTrig_wAck_noHold hm ▸ ⟨rfl, hq, hth⟩)
    · exact .inl (onTrig_wAck_hold hm ▸ enterDelay_measuresTThenH rfl rfl _ hq hth)
  | wNack => exact .inr (finishFail_triggersH hq hth _)
  | rAck | rNack => exact .inl hs

theorem onRead_thenH (r : Response) {s : State} (hs : s.MeasuresTThenH) :
    (onRead r s).MeasuresTThenH ∨ (onRead r s).TriggersH := by
  have ⟨_, hq, hth⟩ := hs
  cases r with
  | rAck => exact .inr (finishOk_triggersH hq hth _)
  | rNack =>
    unfold onRead
    dsimp only
    split
    · exact .inr (finishFail_triggersH hq hth _)
    · split
      · exact .inr (finishFail_triggersH hq hth _)
      · exact .inl (enterDelay_measuresTThenH rfl rfl _ hq hth)
  | wAck | wNack => exact .inl hs

/-- An arm that leads from `s` to `v` goes on with the temperature measurement, or consumes a response and ends in the
humidity trigger. -/
abbrev EndsInHumidityTrigger (s v : State) : Prop :=
  v.MeasuresTThenH ∨ (v.TriggersH ∧ v.pend = false ∧ ∃ r, v.history = .consumed r :: s.history)

/-- A bus phase of the temperature measurement is left for the humidity trigger by consuming a response only. -/
theorem busNext_endsInHumidityTrigger {req : State} {f : Response → State → State} (rsp : Option Response) {s : State}
    (hs : s.MeasuresTThenH) (hreq : req.MeasuresTThenH)
    (hf : ∀ r {u : State}, u.MeasuresTThenH → (f r u).MeasuresTThenH ∨ (f r u).TriggersH)
    (hport : ∀ r u, PortSame u (f r u)) : EndsInHumidityTrigger s (busNext req f rsp s) := by
  obtain ⟨-, h⟩ | ⟨-, -, h⟩ | ⟨-, r, -, h⟩ := busNext_cases req f rsp s <;> rw [h]
  · exact .inl hreq
  · exact .inl hs
  · obtain ⟨hhist, -, hpend⟩ := hport r (consume r s)
    exact (hf r (u := consume r s) hs).imp_right fun htrig => ⟨htrig, hpend, r, hhist⟩

/-- The temperature measurement of GET_DATA ends in the humidity trigger, whatever its result (R118). -/
theorem fsmNext_endsInHumidityTrigger (tick : Bool) (rsp : Option Response) {s : State} (hs : s.MeasuresTThenH) :
    EndsInHumidityTrigger s (fsmNext tick rsp s) := by
  have ⟨hm, _⟩ := hs
  have hframe : (issueWrite ((phaseFrame s).getD []) s).MeasuresTThenH := by rwa [issueWrite_eq]
  unfold fsmNext
  obtain hph | hph | hph | hph := Phase.measuring_iff.mp hm <;> rw [hph]
  · exact busNext_endsInHumidityTrigger rsp hs hframe onTrig_thenH onTrig_port
  · exact .inl (waitDelay_measuresTThenH tick hs rfl)
  · exact busNext_endsInHumidityTrigger rsp hs hs onRead_thenH onRead_port
  · exact .inl (waitDelay_measuresTThenH tick hs rfl)

/-- A cycle of the temperature measurement of GET_DATA keeps the latched mode (R121) and ends as its arm does. -/
theorem step_endsInHumidityTrigger {s t : State} (hs : s.MeasuresTThenH) (hr : (cycleInput s).rst = false)
    (h : step s = .next t) : t.mode = s.mode ∧ EndsInHumidityTrigger s t := by
  have ⟨hm, _⟩ := hs
  obtain ⟨u, -, hafter, ⟨hi, -⟩ | ⟨-, hsame, -, -, rfl⟩⟩ := step_parts h hr
  · simp [hi, Phase.measuring] at hm
  · obtain ⟨hmode, -⟩ := tickedArm_frame (cycleInput s).tick (cycleInput s).rsp u
    refine ⟨hmode.trans hsame.mode, ?_⟩
    unfold EndsInHumidityTrigger
    rw [cooldownTick_eq, ← hafter.history]
    exact fsmNext_endsInHumidityTrigger _ _ (hsame.measuresTThenH hs)

end Sys2Proof.Machine
end

section
/-! PROOFS. The obligations about reset and hazards (spec/70_reset_and_hazards.md). -/

namespace Sys2Proof.Proofs

open Sys2Proof.Machine

/-- Settles O44: only READ takes a timer out of SAFE, and every end of the temperature measurement is `Finish`, which
goes on with humidity. -/
theorem waitSafeThenGetData : Obligations.WaitSafeThenGetData := by
  refine ⟨fun s t hph hmask hr h ht => ?_, fun s t q hi _ h => step_keeps_safe h (by simp [hi]),
    fun s hi hsafeT hsafeH => ⟨_, (exec_getData_idle hi).trans (congrArg _ (if_pos ⟨hsafeT, hsafeH⟩)), rfl, rfl, rfl⟩,
    fun s t hm hq hth hr h => ?_⟩
  · have hread : s.phase ≠ .read := by simp [hph]
    obtain ⟨hsafeT, hsafeH⟩ := waitSatisfied_iff.mp (waitSatisfied_of_end hph hr h ht)
    rw [hmask] at hsafeT hsafeH
    exact ⟨step_keeps_safe (q := .t) h hread (hsafeT rfl), step_keeps_safe (q := .h) h hread (hsafeH rfl)⟩
  · obtain ⟨hmode, hend⟩ := step_endsInHumidityTrigger ⟨hm, hq, hth⟩ hr h
    exact ⟨hmode, hend.imp_right fun ⟨⟨hph, hqh, hlast⟩, hpend, hhist⟩ => ⟨hph, hpend, hqh, hlast, hhist⟩⟩

/-- Settles O9: a cycle with `rst` is `resetBlock`, after the inputs of the cycle are taken. -/
theorem resetOverridesEverything : Obligations.ResetOverridesEverything := fun _ hcfg hr =>
  step_eq_next.mpr ⟨hcfg, .inl ⟨hr, rfl⟩⟩

/-- Settles O35: the arms of INIT_RST and INIT_PREC answer, and the host's access leaves CMD_ERR, PREC and the
parameters. -/
theorem initialisationAnswered : Obligations.InitialisationAnswered := by
  intro s host tick r hgiven hp hr err s0
  have hcfg : (busyHost host (beginCycle s)).cfg = s.cfg := (busyHost_controlSame host s).cfg
  have hprec : (busyHost host (beginCycle s)).prec = s.prec := (busyHost_afterHost host s).prec
  obtain ⟨-, -, hcmdErr⟩ := busyHost_errorsSame host s
  refine ⟨fun hph => ?_, fun hph => ?_⟩
  · rw [step_write_answered hgiven (by rw [hph]; rfl) hp hr
      fun u hu hpu => fsmNext_initRst_answered (hu.trans hph) hpu tick r, onInitRst_write hr, enterDelay]
    dsimp only
    rw [hcfg, hcmdErr]
  · rw [step_write_answered hgiven (by rw [hph]; rfl) hp hr
      fun u hu hpu => fsmNext_initPrec_answered (hu.trans hph) hpu tick r, onInitPrec_write hr]
    dsimp only
    rw [hcfg, hprec, hcmdErr]

end Sys2Proof.Proofs
end
